-- ==== Sys2Proof/Word.lean ====
section
/-! DEFINITION. The words of the SC-412 and the plainest operations on them: bytes, and sets of
stations, programmes and zones as the bit sets that frames carry (12_formats, opening paragraph). -/

namespace Sys2Proof

/-- A character's data or a byte of the image. -/
abbrev Byte := BitVec 8

/-- A 32-entry set: stations, programmes, hours (entry i is bit i of the little-endian word). -/
abbrev Set32 := BitVec 32

/-- A zone set, 64 entries; entry 0 names no zone. -/
abbrev ZoneSet := BitVec 64

namespace Bits

/-- Entry `i` is in the set. -/
abbrev mem {w : Nat} (s : BitVec w) (i : Nat) : Bool := s.getLsbD i

/-- The set with entry `i` added. -/
def insert {w : Nat} (s : BitVec w) (i : Nat) : BitVec w := s ||| BitVec.twoPow w i

/-- The set with entry `i` removed. -/
def erase {w : Nat} (s : BitVec w) (i : Nat) : BitVec w := s &&& ~~~ (BitVec.twoPow w i)

/-- The set of the entries of a list. -/
def ofList (w : Nat) : List Nat → BitVec w
  | [] => 0
  | i :: l => insert (ofList w l) i

/-- The entries of a set, ascending. -/
def toList {w : Nat} (s : BitVec w) : List Nat := (List.range w).filter (fun i => mem s i)

/-- Every entry of `a` is in `b`. -/
def subset {w : Nat} (a b : BitVec w) : Bool := a &&& b == a

end Bits

end Sys2Proof
end

