-- ==== Sys2Proof/Syntax.lean ====
section
/-! DEFINITION. The commands of the SC-412: one constructor per row of spec/opcode_table.json, in the
table's order. The first operand `t` of every command is its moment, in µs on the crystal count
(DESIGN CHOICE, log entry 1). A heard frame is given by its source and its payload bytes. -/

namespace Sys2Proof

/-- Why a frame being assembled is broken (R148). -/
inductive BreakCause where
  /-- a character with a framing error ends -/
  | framing
  /-- a character with mark bit 1 ends before the check byte; it begins a new frame of this kind -/
  | newMark (kind : Byte)
  /-- a break has lasted 11 bit times; it ends at the given moment -/
  | lineBreak (endsAt : Nat)
  /-- the length character is above 24 -/
  | badLength
  /-- more than 2 character times have passed with no next character -/
  | gap
  /-- a break outside a frame: discards nothing and is not counted; it ends at the given moment -/
  | strayBreak (endsAt : Nat)
  deriving DecidableEq, Repr

/-- The 75 commands. -/
inductive Instr where
  /-- FULL_RESET: RSTN held low, or power comes on -/
  | fullReset (t : Nat)
  /-- RESET_RELEASE: the reset pin rises -/
  | resetRelease (t : Nat)
  /-- IMAGE_READ_DONE: a read of an image area ends with these bytes -/
  | imageReadDone (t : Nat) (data : List Byte)
  /-- REREAD_TIMER_EXPIRY -/
  | rereadTimerExpiry (t : Nat)
  /-- LISTEN_TIMER_EXPIRY -/
  | listenTimerExpiry (t : Nat)
  /-- RESTART_MOMENT -/
  | restartMoment (t : Nat)
  /-- MINUTE_BOUNDARY -/
  | minuteBoundary (t : Nat)
  /-- SLEW_PERIOD_EXPIRY -/
  | slewPeriodExpiry (t : Nat)
  /-- AGE_TIMER_EXPIRY -/
  | ageTimerExpiry (t : Nat)
  /-- TIME_PERIOD_EXPIRY -/
  | timePeriodExpiry (t : Nat)
  /-- TIME, a good frame heard -/
  | time (t : Nat) (src : Byte) (payload : List Byte)
  /-- SET_TIME, a good frame heard -/
  | setTime (t : Nat) (src : Byte) (payload : List Byte)
  /-- PLAY_NOW, a good frame heard -/
  | playNow (t : Nat) (src : Byte) (payload : List Byte)
  /-- QUIET_UNTIL, a good frame heard -/
  | quietUntil (t : Nat) (src : Byte) (payload : List Byte)
  /-- STATUS_QUERY, a good frame heard -/
  | statusQuery (t : Nat) (src : Byte) (payload : List Byte)
  /-- RESTART, a good frame heard -/
  | restart (t : Nat) (src : Byte) (payload : List Byte)
  /-- HELLO, a good frame heard -/
  | hello (t : Nat) (src : Byte) (payload : List Byte)
  /-- FAULT, a good frame heard -/
  | fault (t : Nat) (src : Byte) (payload : List Byte)
  /-- STATUS, a good frame heard -/
  | status (t : Nat) (src : Byte) (payload : List Byte)
  /-- UNKNOWN_KIND_FRAME, a good frame heard whose kind code names no kind -/
  | unknownKindFrame (t : Nat) (kind src : Byte) (payload : List Byte)
  /-- FRAME_BROKEN -/
  | frameBroken (t : Nat) (cause : BreakCause)
  /-- FRAME_CHECK_FAIL -/
  | frameCheckFail (t : Nat)
  /-- CALL_DELAY_EXPIRY -/
  | callDelayExpiry (t : Nat)
  /-- CALL, a good frame heard -/
  | call (t : Nat) (src : Byte) (payload : List Byte)
  /-- MENU, a good frame heard -/
  | menu (t : Nat) (src : Byte) (payload : List Byte)
  /-- WINDOW_TIMER_EXPIRY -/
  | windowTimerExpiry (t : Nat)
  /-- AGREE_WAIT_EXPIRY -/
  | agreeWaitExpiry (t : Nat)
  /-- AGREE, a good frame heard -/
  | agree (t : Nat) (src : Byte) (payload : List Byte)
  /-- WITHDRAW, a good frame heard -/
  | withdraw (t : Nat) (src : Byte) (payload : List Byte)
  /-- LEAD_IN_EXPIRY -/
  | leadInExpiry (t : Nat)
  /-- READY, a good frame heard -/
  | ready (t : Nat) (src : Byte) (payload : List Byte)
  /-- GATE_TIMER_EXPIRY -/
  | gateTimerExpiry (t : Nat)
  /-- GO, a good frame heard -/
  | go (t : Nat) (src : Byte) (payload : List Byte)
  /-- SETTLE_TIMER_EXPIRY -/
  | settleTimerExpiry (t : Nat)
  /-- HEADER_READ_DONE: a programme header read ends with these bytes -/
  | headerReadDone (t : Nat) (data : List Byte)
  /-- BLOCK_READ_DONE: a cue block read ends with these bytes -/
  | blockReadDone (t : Nat) (data : List Byte)
  /-- CUE_DUE -/
  | cueDue (t : Nat)
  /-- STRIKE_DISPATCH -/
  | strikeDispatch (t : Nat)
  /-- WAKE_UP_DUE -/
  | wakeUpDue (t : Nat)
  /-- PART_END -/
  | partEnd (t : Nat)
  /-- BEAT_MARK -/
  | beatMark (t : Nat)
  /-- STRIKE_DUE -/
  | strikeDue (t : Nat)
  /-- LATE_DEADLINE -/
  | lateDeadline (t : Nat)
  /-- PULSE_END of a bell's hammer -/
  | pulseEnd (t : Nat) (bell : Nat)
  /-- RECOVERY_END of a bell's hammer -/
  | recoveryEnd (t : Nat) (bell : Nat)
  /-- HEAT_PERIOD_EXPIRY -/
  | heatPeriodExpiry (t : Nat)
  /-- DAMPER_DROP of a bell's damper -/
  | damperDrop (t : Nat) (bell : Nat)
  /-- SETTLING_DONE -/
  | settlingDone (t : Nat)
  /-- SENSOR_PIN_CHANGE: the pin is at this level from now on -/
  | sensorPinChange (t : Nat) (sensor : Nat) (high : Bool)
  /-- SENSOR_FILTER_EXPIRY of a HOME or LIMIT sensor -/
  | sensorFilterExpiry (t : Nat) (sensor : Nat)
  /-- ENCODER_FILTER_EXPIRY of an ENCODER sensor -/
  | encoderFilterExpiry (t : Nat) (sensor : Nat)
  /-- JAM_TIMER_EXPIRY of a figure -/
  | jamTimerExpiry (t : Nat) (figure : Nat)
  /-- COAST_TIMER_EXPIRY of a figure -/
  | coastTimerExpiry (t : Nat) (figure : Nat)
  /-- REVERSAL_HOLD_EXPIRY of a figure -/
  | reversalHoldExpiry (t : Nat) (figure : Nat)
  /-- HOMING_LIMIT_EXPIRY of a figure -/
  | homingLimitExpiry (t : Nat) (figure : Nat)
  /-- JAM_HOMING_WAIT_EXPIRY of a figure -/
  | jamHomingWaitExpiry (t : Nat) (figure : Nat)
  /-- OWN_CLAIM_WINDOW_END -/
  | ownClaimWindowEnd (t : Nat)
  /-- PEER_CLAIM_WINDOW_END -/
  | peerClaimWindowEnd (t : Nat)
  /-- CLAIM, a good frame of kind CLAIM heard, reassert flag clear -/
  | claim (t : Nat) (src : Byte) (payload : List Byte)
  /-- REASSERT, a good frame of kind CLAIM heard, reassert flag set -/
  | reassert (t : Nat) (src : Byte) (payload : List Byte)
  /-- RELEASE, a good frame heard -/
  | release (t : Nat) (src : Byte) (payload : List Byte)
  /-- SILENCE_TIMER_EXPIRY of a peer -/
  | silenceTimerExpiry (t : Nat) (station : Nat)
  /-- ATTEMPT_START -/
  | attemptStart (t : Nat)
  /-- COLLISION -/
  | collision (t : Nat)
  /-- BREAK_END -/
  | breakEnd (t : Nat)
  /-- FRAME_SENT -/
  | frameSent (t : Nat)
  /-- READY_REQUEUE -/
  | readyRequeue (t : Nat)
  /-- RELEASE_REQUEUE -/
  | releaseRequeue (t : Nat)
  /-- HELLO_REQUEUE -/
  | helloRequeue (t : Nat)
  /-- CLAIM_RETRY_TRIAL -/
  | claimRetryTrial (t : Nat)
  /-- RAIL_MEASUREMENT, in steps of 0.1 V -/
  | railMeasurement (t : Nat) (decivolts : Nat)
  /-- LAMP_PERIOD -/
  | lampPeriod (t : Nat)
  /-- PWM_PERIOD -/
  | pwmPeriod (t : Nat)
  /-- STROBE_PULSE_END -/
  | strobePulseEnd (t : Nat)
  /-- CHARACTER_RECEIVED -/
  | characterReceived (t : Nat) (data : Byte) (mark : Bool)
  deriving DecidableEq, Repr

end Sys2Proof
end

