-- ==== Sys2Proof/Config.lean ====
section
/-! DEFINITION. The constants the spec fixes for every SC-412 (durations in µs of crystal time) and the
two values it leaves open. Per-station settings are not here: they are loaded from the image into State. -/

namespace Sys2Proof.Config

/-- One ms of crystal time. -/
abbrev msUs : Nat := 1000
/-- ms in a day (R1). -/
abbrev dayMs : Nat := 86400000
/-- ms in a minute (R1). -/
abbrev minuteMs : Nat := 60000
/-- Days of the range 2000-01-01 to 2099-12-31 (R1). -/
abbrev centuryDays : Nat := 36525
/-- Age timer, 4 h (R2). -/
abbrev ageUs : Nat := 14400000000
/-- TIME period, 16 s (R11). -/
abbrev timePeriodUs : Nat := 16000000
/-- Slew period, 64 ms (R12). -/
abbrev slewPeriodUs : Nat := 64000
/-- Largest difference slewed, in ms (R12). -/
abbrev slewLimitMs : Nat := 500
/-- Grace of a forward step and acceptance of a CALL, 30 s in ms (R13, R23). -/
abbrev graceMs : Nat := 30000
/-- Service slot id (R8). -/
abbrev serviceSlot : Nat := 2047
/-- Call delay per station number, 10 ms (R20). -/
abbrev callDelayUs : Nat := 10000
/-- Gather window, 400 ms (R22). -/
abbrev gatherUs : Nat := 400000
/-- AGREE wait, 1,000 ms (R24). -/
abbrev agreeWaitUs : Nat := 1000000
/-- Lead-in of gate 0, 1,500 ms (R40). -/
abbrev leadInUs : Nat := 1500000
/-- Settle time, 50 ms (R45). -/
abbrev settleUs : Nat := 50000
/-- GO stagger, 100 ms, and the gate timer after a lost GO (R47, R48). -/
abbrev staggerUs : Nat := 100000
/-- A strike is dispatched this long before its onset (R69). -/
abbrev strikeAheadUs : Nat := 100000
/-- Heat period, 10 ms (R86). -/
abbrev heatUs : Nat := 10000
/-- Coast timer, 200 ms (R107). -/
abbrev coastUs : Nat := 200000
/-- Reversal hold, 50 ms (R104). -/
abbrev holdUs : Nat := 50000
/-- Jam-homing wait, 5 s (R113). -/
abbrev jamWaitUs : Nat := 5000000
/-- Claim window, 30 ms (R121). -/
abbrev claimUs : Nat := 30000
/-- Reassert rate limit, 100 ms (R125). -/
abbrev reassertUs : Nat := 100000
/-- Silence timer, 40 s (R157). -/
abbrev silenceUs : Nat := 40000000
/-- Reread timer, 100 ms (R161). -/
abbrev rereadUs : Nat := 100000
/-- Listen timer, 2 s (R163). -/
abbrev listenUs : Nat := 2000000
/-- Filter of a HOME or LIMIT sensor, 1 ms (R140). -/
abbrev sensorFilterUs : Nat := 1000
/-- Filter of an ENCODER sensor, 20 µs (R141). -/
abbrev encoderFilterUs : Nat := 20
/-- Top of the 24-bit address space of the cue memory (R59). -/
abbrev memTop : Nat := 16777216

/-- FREE VALUE (DESIGN CHOICE, log entry 10). R10 takes the day on which a heard slot's moment lies
nearest to the station's own time; where the moment lies exactly 12 hours before one day's and after
the next's, the spec names neither. For the slot id and the station's own day: whether the station's
own day is taken. -/
opaque halfDayTie : Nat → Nat → Bool

/-- FREE VALUE (DESIGN CHOICE, log entry 17). R99 and R170 let the condition "jammed figure" last while
the figure is JAMMED; R112, step 3, clears it at the arrival that ends the homing run, when the figure
is no longer JAMMED. Whether the condition is present during the homing run that ends a jam. -/
opaque jamConditionWhileHoming : Bool

end Sys2Proof.Config
end

