-- ==== Sys2Proof/Machine/State.lean ====
section
/-! DEFINITION. The state of the SC-412 as plain data: what each of its eleven blocks holds (the state
tables that open the chapters of spec/), the waiting commands, and the state right after reset.
Tables numbered from 1 in the spec are lists whose entry 0 is never named. -/

namespace Sys2Proof.Machine

/-! ## Faults and refusals of the model -/

/-- Why a step stops. The SC-412's own faults (R168) are effects on `State` and every command has an
effect in every state, so there is no reason: the type has no constructor (safe). -/
inductive Fault where
  deriving DecidableEq, Repr

/-- A command without a meaning. -/
inductive Refusal where
  /-- Raised by `exec`'s arm of a command that is not modelled yet; safe. No arm raises it. -/
  | notModelled (mnemonic : String)
  deriving DecidableEq, Repr

/-! ## Names -/

/-- Station states (R160). -/
inductive StationState where
  | starting | listening | inService | stopped
  deriving DecidableEq, Repr

/-- Operating levels (R5). -/
inductive Level where
  | closed | quiet | opened
  deriving DecidableEq, Repr

/-- Slot kinds (R8); a service slot has none (R17). -/
inductive SlotKind where
  | hour | other
  deriving DecidableEq, Repr

/-- Show Engine states (chapter 2, table before R17). -/
inductive Engine where
  | idle | callWait | calling | answered | arming | gateWait | running | settling
  deriving DecidableEq, Repr

/-- Reasons a WITHDRAW carries (12_formats, Table 6). -/
inductive Reason where
  | excluded | stopped | restart | armingFailed | menuChanged | notArmed
  deriving DecidableEq, Repr

/-- Gate phases (R39). -/
inductive Phase where
  | ahead | standing | readyQueued | ready | released
  deriving DecidableEq, Repr

/-- Supply rail states (R143). -/
inductive RailState where
  | normal | sag | cut
  deriving DecidableEq, Repr

/-- Fault codes (R168; 12_formats, Table 7). -/
inductive FaultCode where
  | configBad | imageUnreadable | dupStation
  | cueBlockBad | figureJam | figureFailed | overtravel | railCut | withdrawn
  | calendarEntryBad | slotMissed | slotSkipped | slotLost | notIncluded | cueOrder | cueUnderrun
  | strikeLate | strikeListFull | thermalTrim | thermalSkip | cutShort | moveBusy | zoneLost
  | gateExcludedPeer | txDropped | txDisplaced | serviceDenied | railSag
  deriving DecidableEq, Repr

/-- Fault classes (R168). -/
inductive FaultClass where
  | advisory | degraded | stop
  deriving DecidableEq, Repr

/-- Frame classes (R151), ascending rank. -/
inductive FrameClass where
  | routine | showClass | urgent
  deriving DecidableEq, Repr

/-! ## Frames the station sends -/

/-- A frame's content, fixed when it is queued; the values of a TIME are taken at each attempt (R151). -/
inductive Content where
  | hello (role : Byte)
  /-- the grade and the clock in ms since 2000-01-01 at the start of the attempt; none before it -/
  | time (values : Option (Nat × Nat))
  | call (slot pref : Nat) (menu : Set32) (level : Level)
  | menu (slot caller : Nat) (menu : Set32)
  | agree (slot prog : Nat) (level : Level) (hour : Nat) (members : Set32)
  | withdraw (slot : Nat) (reason : Reason)
  | ready (slot gate : Nat)
  | go (slot gate : Nat) (members : Set32)
  | claim (reassert : Bool) (zones : ZoneSet)
  | release (zones : ZoneSet)
  | fault (code : FaultCode) (detail : Nat)
  | status (page : Nat) (contents : List Byte)
  deriving DecidableEq, Repr

/-- A frame in the transmit queue; `id` tells frames apart (the model's own number, log entry 40). -/
structure TxFrame where
  id : Nat
  content : Content
  deriving DecidableEq, Repr

/-! ## Image Loader -/

/-- Address and length of an image area (12_formats, Table 9). -/
structure Area where
  addr : Nat
  len : Nat
  deriving DecidableEq, Repr

/-- The image header as read and accepted (R161, Table 9). -/
structure ImgHeader where
  config : Area
  path : Area
  calendar : Area
  directory : Area
  libBase : Nat
  libSize : Nat
  deriving DecidableEq, Repr

/-- The load record (R161): area 1 to 5, attempt 1 or 2, the moment the read began (none while it does
not run), the reread timer, and the bytes of the areas read good so far. -/
structure LoadRec where
  area : Nat
  attempt : Nat
  started : Option Nat
  reread : Option Nat
  config : List Byte
  path : List Byte
  calendar : List Byte
  deriving DecidableEq, Repr

/-- A restart that waits (R165): for the WITHDRAW of this number to leave the queue, or for nothing. -/
inductive RestartWait where
  | none | due | awaiting (frame : Nat)
  deriving DecidableEq, Repr

/-- IML. -/
structure Iml where
  station : StationState
  muted : Bool
  number : Option Nat
  role : Byte
  header : Option ImgHeader
  load : Option LoadRec
  accepted : Bool
  listen : Option Nat
  helloPending : Bool
  /-- count of frame ends at the loss of a HELLO that is to be queued again (R164) -/
  helloLost : Option Nat
  restart : RestartWait
  deriving DecidableEq, Repr

/-! ## Station Clock -/

/-- A calendar entry (R3). -/
structure CalEntry where
  valid : Bool
  firstMonth : Nat
  firstDay : Nat
  lastMonth : Nat
  lastDay : Nat
  weekdays : BitVec 8
  prefHour : Nat
  prefOther : Nat
  allowed : Set32
  openCeiling : Nat
  openFrom : Nat
  quietFrom : Nat
  closedFrom : Nat
  deriving DecidableEq, Repr

/-- A slot table entry (R8). -/
structure SlotEntry where
  minute : Nat
  kind : SlotKind
  hours : Set32
  deriving DecidableEq, Repr

/-- SCK. The clock reads `clkMs` ms since 2000-01-01 at crystal moment `clkAt`. -/
structure Sck where
  clkMs : Nat
  clkAt : Nat
  minuteDone : Nat
  grade : Nat
  ageTimer : Option Nat
  slew : Int
  slewTimer : Option Nat
  calendar : List CalEntry
  entry : Option Nat
  level : Level
  /-- end moment of the quiet override, in minutes since 2000-01-01 -/
  quiet : Option Nat
  quietCeiling : Nat
  slots : List SlotEntry
  lastSlot : Option (Nat × Nat)
  timeTimer : Option Nat
  deriving DecidableEq, Repr

/-! ## Show Engine -/

/-- The pending slot (R17). -/
structure PendingSlot where
  slot : Nat
  kind : Option SlotKind
  day : Nat
  requested : Option Nat
  delay : Option Nat
  deriving DecidableEq, Repr

/-- The AGREE of a gather record (R29). -/
structure AgreeRec where
  frame : Nat
  prog : Nat
  level : Level
  hour : Nat
  members : Set32
  deriving DecidableEq, Repr

/-- The gather record (R17): the own CALL as queued, the window timer, the recorded answers, and the
AGREE once queued. -/
structure Gather where
  callFrame : Nat
  slot : Nat
  pref : Nat
  menu : Set32
  level : Level
  window : Option Nat
  answers : List (Nat × Set32)
  agree : Option AgreeRec
  deriving DecidableEq, Repr

/-- The answer record (R17), with the number of the MENU queued last. -/
structure AnswerRec where
  slot : Nat
  day : Nat
  caller : Nat
  menuFrame : Nat
  wait : Option Nat
  deriving DecidableEq, Repr

/-- The show record (R17). -/
structure ShowRec where
  slot : Nat
  day : Nat
  prog : Nat
  level : Level
  hour : Nat
  members : Set32
  withdrawn : Bool
  deriving DecidableEq, Repr

/-- SHE. -/
structure She where
  engine : Engine
  pend : Option PendingSlot
  gather : Option Gather
  answer : Option AnswerRec
  showRec : Option ShowRec
  deriving DecidableEq, Repr

/-! ## Gate Unit -/

/-- The gate record (R39). `readyFrame` and `goFrame` number the own READY and GO in the queue;
`readyLost` is the count of frame ends at the loss of a READY that is to be queued again (R43). -/
structure GateRec where
  number : Option Nat
  phase : Phase
  readySet : Set32
  leadIn : Option Nat
  readyMoment : Nat
  timer : Option Nat
  settle : Option Nat
  readyFrame : Option Nat
  goFrame : Option Nat
  readyLost : Option Nat
  deriving DecidableEq, Repr

/-- GTU. -/
structure Gtu where
  gate : Option GateRec
  stray : Nat
  limit : Nat
  deriving DecidableEq, Repr

/-! ## Cue Sequencer -/

/-- A programme directory entry (R53). -/
structure DirEntry where
  present : Bool
  rank : Nat
  quietFit : Bool
  figures : BitVec 8
  bells : BitVec 16
  addr : Nat
  bad : Bool
  deriving DecidableEq, Repr

/-- A cue range (R55). -/
structure CueRange where
  first : Nat
  count : Nat
  deriving DecidableEq, Repr

/-- A part record of a programme header (R55). -/
structure Part where
  tempo : Nat
  beats : Nat
  mirror : Bool
  loops : Nat
  introLen : Nat
  bodyLen : Nat
  codaLen : Nat
  intro : CueRange
  body : CueRange
  coda : CueRange
  deriving DecidableEq, Repr

/-- The sections of a part (R57). -/
inductive Section where
  | intro | body | coda
  deriving DecidableEq, Repr

/-- A position in the walk (R57): part, section, pass, index within the section's cue range. -/
structure Pos where
  part : Nat
  sec : Section
  pass : Nat
  idx : Nat
  deriving DecidableEq, Repr

/-- A cue record as its bytes stand (12_formats, Table 17): kind code, section tick, bytes 3 to 6. -/
structure Cue where
  kind : Nat
  tick : Nat
  a : Nat
  b : Nat
  c : Nat
  d : Nat
  deriving DecidableEq, Repr

/-- States of a cue block slot (R60). -/
inductive SlotState where
  | empty | filling | ready | bad
  deriving DecidableEq, Repr

/-- A cue block slot: its state, the item of the block sequence it holds (numbered from 1), the item's
first position, its block number, and its records when READY (R60). -/
structure CueSlot where
  state : SlotState
  item : Nat
  pos : Pos
  block : Nat
  cues : List Cue
  deriving DecidableEq, Repr

/-- A pointer of the walk (R57): its position, none at the end of the programme; the item it lies in;
the tick of the last cue of the section pass that was not skipped (R58); the item whose block it waits
for, or waited for and has not caught up from (R63). -/
structure Cursor where
  pos : Option Pos
  item : Nat
  prev : Option Nat
  waiting : Option Nat
  deriving DecidableEq, Repr

/-- A segment of the beat clock (R64): the part, the origin show time and tick, the tempo. -/
structure Segment where
  part : Nat
  tau0 : Int
  tick0 : Nat
  tempo : Nat
  deriving DecidableEq, Repr

/-- A wake-up (R70): the hour expansion record it is for, its part and part tick. -/
structure WakeUp where
  record : Nat
  part : Nat
  tick : Nat
  deriving DecidableEq, Repr

/-- What a read of the port queue is for (R59). -/
inductive ReadFor where
  | header | slotA (item : Nat) | slotB (item : Nat)
  deriving DecidableEq, Repr

/-- A read in the port queue (R59): purpose, start address, attempt 1 or 2, and the moment it began
(of use for the head, the read in progress). -/
structure PortRead where
  use : ReadFor
  addr : Nat
  attempt : Nat
  started : Nat
  deriving DecidableEq, Repr

/-- CSQ. -/
structure Csq where
  directory : List DirEntry
  parts : Option (List Part)
  builtin : Bool
  slotA : CueSlot
  slotB : CueSlot
  play : Cursor
  lead : Cursor
  running : Bool
  tau : Int
  seg : Segment
  anchorReal : Nat
  anchorTau : Int
  gatesDone : List Pos
  /-- the position after the GATE cue stood at; outer none while no gate is stood at -/
  gateAfter : Option (Option Pos × Nat)
  gateTick : Nat
  nextMark : Nat
  wakeups : List WakeUp
  port : List PortRead
  underruns : List Nat
  deriving DecidableEq, Repr

/-! ## Bell Unit -/

/-- A bell record (R74). Times are in µs but for recovery and ring time, in ms. -/
structure BellRec where
  hammer : Nat
  damper : Option Nat
  curve : List (Nat × Nat)
  leadMin : Nat
  leadSpan : Nat
  minWidth : Nat
  heatLimit : Nat
  cool : Nat
  recovery : Nat
  ring : Nat
  enabled : Bool
  deriving DecidableEq, Repr

/-- Hammer states (R76), with the pulse end or recovery end moment. -/
inductive Hammer where
  | idle | pulsing (ends : Nat) | recovering (ends : Nat)
  deriving DecidableEq, Repr

/-- Damper states (R88): UP with the ring timer held, or running toward a drop moment. -/
inductive Damper where
  | down | upHeld | up (drop : Nat)
  deriving DecidableEq, Repr

/-- What the Bell Unit holds for one bell. -/
structure BellRun where
  hammer : Hammer
  heat : Nat
  damper : Damper
  deriving DecidableEq, Repr

/-- A strike list entry (R79). -/
structure Strike where
  bell : Nat
  vel : Nat
  lead : Nat
  onset : Int
  fire : Int
  ins : Nat
  deriving DecidableEq, Repr

/-- An hour expansion record (R91), numbered, with the part its ticks count in. -/
structure HourRec where
  id : Nat
  bell : Nat
  vel : Nat
  interval : Nat
  part : Nat
  next : Nat
  remaining : Nat
  deriving DecidableEq, Repr

/-- BEL. -/
structure Bel where
  bells : List (Option BellRec)
  k : Nat
  tolerance : Nat
  hourBell : Option Nat
  run : List BellRun
  strikes : List Strike
  nextIns : Nat
  hours : List HourRec
  nextHour : Nat
  heatTimer : Option Nat
  deriving DecidableEq, Repr

/-! ## Figure Unit -/

/-- A figure record (R97). -/
structure FigRec where
  motor : Nat
  dir : Nat
  encoder : Nat
  home : Nat
  limit : Option Nat
  travelMax : Nat
  park : Nat
  creep : Nat
  slow : Nat
  window : Nat
  jamMs : Nat
  homingS : Nat
  homingZones : List Nat
  deriving DecidableEq, Repr

/-- A path record (R98): waypoints of position and duty, zone lists of zone and release index. -/
structure PathRec where
  waypoints : List (Nat × Nat)
  zones : List (Nat × Nat)
  mirrorZones : List (Nat × Nat)
  deriving DecidableEq, Repr

/-- Figure states (R99). -/
inductive FigState where
  | unhomed | homing | parked | waitZone | moving | paused | jammed | failed
  deriving DecidableEq, Repr

/-- Kinds of run (chapter 6). -/
inductive RunKind where
  | move | park | homing
  deriving DecidableEq, Repr

/-- Phases of a homing run (R112). -/
inductive HomePhase where
  | claim | seek | toPark
  deriving DecidableEq, Repr

/-- The homing limit timer (R112): not started, running to a deadline, or held with this much left. -/
inductive LimitTimer where
  | off | runs (deadline : Nat) | held (left : Nat)
  deriving DecidableEq, Repr

/-- A run record: kind, resolved waypoints (position, duty), current leg (numbered from 1), speed
scale, run zone set (zone, release index), direction of the leg, and for homing the phase, the phase
that a grant begins or resumes, the limit timer, and whether the figure was JAMMED as the run began. -/
structure RunRec where
  kind : RunKind
  waypoints : List (Nat × Nat)
  leg : Nat
  scale : Nat
  zones : List (Nat × Nat)
  outward : Bool
  phase : HomePhase
  resume : HomePhase
  limit : LimitTimer
  fromJam : Bool
  deriving DecidableEq, Repr

/-- The jam-homing wait (R113): none, owed from the next entry to IDLE, or running. -/
inductive JamWait where
  | none | owed | until (deadline : Nat)
  deriving DecidableEq, Repr

/-- What the Figure Unit holds for one figure. `lastOut` is the last direction, true for OUTWARD. -/
structure FigRun where
  state : FigState
  pos : Nat
  lastOut : Bool
  duty : Nat
  coast : Option Nat
  jam : Option Nat
  hold : Option Nat
  jamWait : JamWait
  showMove : Bool
  run : Option RunRec
  deriving DecidableEq, Repr

/-- FIG. -/
structure Fig where
  figs : List (Option FigRec)
  paths : List PathRec
  run : List FigRun
  deriving DecidableEq, Repr

/-! ## Zone Unit -/

/-- A zone view entry (R118). A claim group is told by its station and `group`: the number of the
CLAIM frame for an own claim, the end moment of the frame for another station's. -/
inductive ZoneEntry where
  | free
  | pending (station group : Nat) (windowEnd : Option Nat) (figure : Option Nat)
  | held (station : Nat) (figure : Option Nat)
  deriving DecidableEq, Repr

/-- A request's state (R119), with the number of its CLAIM. -/
inductive ReqState where
  | waiting | claiming (frame : Nat)
  deriving DecidableEq, Repr

/-- A request of the own list (R119). -/
structure ZoneReq where
  figure : Nat
  zones : List Nat
  state : ReqState
  deriving DecidableEq, Repr

/-- ZON. -/
structure Zon where
  view : List ZoneEntry
  reqs : List ZoneReq
  reassertAt : List (Option Nat)
  marks : List Nat
  /-- RELEASEs lost and to be queued again (R128): count of frame ends at the loss, zones -/
  releaseLost : List (Nat × ZoneSet)
  /-- count of frame ends at the last loss of a CLAIM whose retry moment is to come (R121) -/
  claimRetry : Option Nat
  trialDue : Bool
  granted : List Nat
  deriving DecidableEq, Repr

/-! ## Channel and Rail Unit -/

/-- Channel kinds (R133). -/
inductive ChanKind where
  | off | hammer | damper | motorPwm | motorDir | lamp | strobe
  deriving DecidableEq, Repr

/-- Strobe modes (R72). -/
inductive StrobeMode where
  | bar | beat
  deriving DecidableEq, Repr

/-- A channel record (R133); the mode is of use for STROBE. -/
structure ChanRec where
  kind : ChanKind
  mode : StrobeMode
  deriving DecidableEq, Repr

/-- A fade record (R137). -/
structure Fade where
  start : Nat
  target : Nat
  at_ : Nat
  dur : Nat
  deriving DecidableEq, Repr

/-- A lamp channel's level and fade (R137). -/
structure Lamp where
  level : Nat
  fade : Option Fade
  deriving DecidableEq, Repr

/-- Encoder edge selections (R141). -/
inductive EdgeSel where
  | rising | falling | both
  deriving DecidableEq, Repr

/-- Sensor kinds with their parameter (R140, R141): polarity, true for active high; or edge. -/
inductive SensRec where
  | off | home (activeHigh : Bool) | limit (activeHigh : Bool) | encoder (edge : EdgeSel)
  deriving DecidableEq, Repr

/-- A sensor's pin level, filtered level (none while not formed) and filter timer (R140, R141). -/
structure SensRun where
  pin : Bool
  filtered : Option Bool
  timer : Option Nat
  deriving DecidableEq, Repr

/-- CHR. `cntDown` counts toward CUT (NORMAL, SAG) or toward SAG (CUT); `cntAlt` toward SAG (NORMAL)
or toward NORMAL (SAG) (R143). -/
structure Chr where
  channels : List ChanRec
  lamps : List Lamp
  strobeEnd : Option Nat
  pwmStart : Nat
  lampStart : Nat
  sensorTab : List SensRec
  sensors : List SensRun
  rail : RailState
  cntDown : Nat
  cntAlt : Nat
  warn : Nat
  cut : Nat
  lastMeas : Nat
  deriving DecidableEq, Repr

/-! ## Bus Interface -/

/-- Transmitter states (R151, R152); WAITING is IDLE with a frame queued. A BREAK has an end moment and
leads to RETRY_WAIT or to IDLE. -/
inductive TxState where
  | idle | sending | breaking (ends : Nat) (retry : Bool) | retryWait
  deriving DecidableEq, Repr

/-- Peer table entries (R157); PRESENT with the silence timer's deadline. -/
inductive Peer where
  | unknown | present (silentAt : Nat) | silent
  deriving DecidableEq, Repr

/-- BIF. -/
structure Bus where
  fast : Bool
  rotating : Bool
  rxOn : Bool
  assembly : List Byte
  lastChar : Nat
  idleFrom : Nat
  tx : TxState
  current : Option Nat
  fails : Nat
  attemptAt : Nat
  queue : List TxFrame
  pointer : FrameClass
  rxBroken : Nat
  rxCheck : Nat
  txCollision : Nat
  peers : List Peer
  dup : Bool
  nextId : Nat
  frameEnds : Nat
  deriving DecidableEq, Repr

/-! ## Fault Unit -/

/-- A fault record (R168). -/
structure FaultRec where
  code : FaultCode
  detail : Nat
  day : Nat
  minute : Nat
  deriving DecidableEq, Repr

/-- FLT. `counters` are the ADVISORY counters in the order of R168's table. -/
structure Flt where
  list : List FaultRec
  counters : List Nat
  suppressed : Nat
  moveSkipped : Nat
  maskAdvisory : Bool
  maskDegraded : Bool
  pinOnDegraded : Bool
  serviceSet : BitVec 8
  deriving DecidableEq, Repr

/-! ## The state -/

/-- The station: the crystal count in µs, whether the reset pin is held low, the eleven blocks, and
the commands that wait, first in, first out. -/
structure State where
  now : Nat
  inReset : Bool
  iml : Iml
  sck : Sck
  she : She
  gtu : Gtu
  csq : Csq
  bel : Bel
  fig : Fig
  zon : Zon
  chr : Chr
  bus : Bus
  flt : Flt
  pending : List Sys2Proof.Instr
  deriving DecidableEq, Repr

/-! ## Values after a full reset -/

/-- An absent directory entry (R53). -/
def DirEntry.absent : DirEntry := ⟨false, 0, false, 0, 0, 0, false⟩

/-- The first position of a walk; stands where a position has no meaning. -/
def Pos.first : Pos := ⟨0, .intro, 0, 0⟩

/-- An EMPTY slot (R60). -/
def CueSlot.vacant : CueSlot := ⟨.empty, 0, Pos.first, 0, []⟩

/-- No pointer (R73). -/
def Cursor.nowhere : Cursor := ⟨none, 0, none, none⟩

/-- A bell at rest (R96). -/
def BellRun.rest : BellRun := ⟨.idle, 0, .down⟩

/-- A figure after a reset (R117). -/
def FigRun.reset : FigRun := ⟨.unhomed, 0, false, 0, none, none, none, .none, false, none⟩

/-- An empty path (R98). -/
def PathRec.empty : PathRec := ⟨[], [], []⟩

/-- R167. -/
def Iml.reset : Iml :=
  { station := .starting, muted := false, number := none, role := 0, header := none, load := none
    accepted := false, listen := none, helloPending := false, helloLost := none, restart := .none }

/-- R16. -/
def Sck.reset : Sck :=
  { clkMs := 0, clkAt := 0, minuteDone := 0, grade := 15, ageTimer := none, slew := 0, slewTimer := none
    calendar := [], entry := none, level := .closed, quiet := none, quietCeiling := 0, slots := []
    lastSlot := none, timeTimer := none }

/-- R38. -/
def She.reset : She := ⟨.idle, none, none, none, none⟩

/-- R39. -/
def Gtu.reset : Gtu := ⟨none, 0, 15⟩

/-- R73. -/
def Csq.reset : Csq :=
  { directory := List.replicate 32 DirEntry.absent, parts := none, builtin := false
    slotA := CueSlot.vacant, slotB := CueSlot.vacant, play := Cursor.nowhere, lead := Cursor.nowhere
    running := false, tau := 0, seg := ⟨0, 0, 0, 60⟩, anchorReal := 0, anchorTau := 0
    gatesDone := [], gateAfter := none, gateTick := 0, nextMark := 0, wakeups := [], port := []
    underruns := [] }

/-- R96. -/
def Bel.reset : Bel :=
  { bells := List.replicate 13 none, k := 1, tolerance := 30, hourBell := none
    run := List.replicate 13 BellRun.rest, strikes := [], nextIns := 0, hours := [], nextHour := 0
    heatTimer := none }

/-- R117. -/
def Fig.reset : Fig :=
  ⟨List.replicate 7 none, List.replicate 64 PathRec.empty, List.replicate 7 FigRun.reset⟩

/-- R132. -/
def Zon.reset : Zon :=
  { view := List.replicate 64 .free, reqs := [], reassertAt := List.replicate 64 none, marks := []
    releaseLost := [], claimRetry := none, trialDue := false, granted := [] }

/-- R145. -/
def Chr.reset : Chr :=
  { channels := List.replicate 17 ⟨.off, .bar⟩, lamps := List.replicate 17 ⟨0, none⟩, strobeEnd := none
    pwmStart := 0, lampStart := 0, sensorTab := List.replicate 9 .off
    sensors := List.replicate 9 ⟨false, none, none⟩, rail := .cut, cntDown := 0, cntAlt := 0
    warn := 0, cut := 0, lastMeas := 0 }

/-- R159. -/
def Bus.reset : Bus :=
  { fast := false, rotating := false, rxOn := false, assembly := [], lastChar := 0, idleFrom := 0
    tx := .idle, current := none, fails := 0, attemptAt := 0, queue := [], pointer := .routine
    rxBroken := 0, rxCheck := 0, txCollision := 0, peers := List.replicate 31 .unknown, dup := false
    nextId := 0, frameEnds := 0 }

/-- R177. -/
def Flt.reset : Flt :=
  { list := [], counters := List.replicate 19 0, suppressed := 0, moveSkipped := 0
    maskAdvisory := false, maskDegraded := false, pinOnDegraded := false, serviceSet := 0xFF }

/-- The machine right after a full reset, the reset pin still low: every block at its full-reset
values, no command waiting. Values the spec does not state are DESIGN CHOICE (log entries 1, 24, 25). -/
def State.reset : State :=
  { now := 0, inReset := true, iml := Iml.reset, sck := Sck.reset, she := She.reset, gtu := Gtu.reset
    csq := Csq.reset, bel := Bel.reset, fig := Fig.reset, zon := Zon.reset, chr := Chr.reset
    bus := Bus.reset, flt := Flt.reset, pending := [] }

end Sys2Proof.Machine
end

