-- ==== Sys2Proof/Machine/Bytes.lean ====
section
/-! DEFINITION. Byte order, sums and check bytes of the bus and the image (12_formats), and the dates
of chapter 1. -/

namespace Sys2Proof.Machine

/-! ## Multi-byte numbers, least significant byte first -/

/-- Byte `i` of `d` as a number; 0 past its end. -/
def byteAt (d : List Byte) (i : Nat) : Nat := (d.getD i 0).toNat

/-- The two-byte number at `i`. -/
def le16 (d : List Byte) (i : Nat) : Nat := byteAt d i + 256 * byteAt d (i + 1)

/-- The three-byte number at `i`. -/
def le24 (d : List Byte) (i : Nat) : Nat := le16 d i + 65536 * byteAt d (i + 2)

/-- The four-byte number at `i`. -/
def le32 (d : List Byte) (i : Nat) : Nat := le16 d i + 65536 * le16 d (i + 2)

/-- The 32-entry set at `i`: entry k is bit k mod 8 of byte k ÷ 8. -/
def set32At (d : List Byte) (i : Nat) : Set32 := BitVec.ofNat 32 (le32 d i)

/-- The zone set at `i`, 8 bytes. -/
def zoneSetAt (d : List Byte) (i : Nat) : ZoneSet :=
  BitVec.ofNat 64 (le32 d i + 4294967296 * le32 d (i + 4))

/-- `n` as `k` bytes, least significant first. -/
def leBytes : Nat → Nat → List Byte
  | 0, _ => []
  | k + 1, n => BitVec.ofNat 8 n :: leBytes k (n / 256)

/-- A read of `n` bytes as the port gives it: FFh where the memory drives nothing (R59). -/
def readBytes (n : Nat) (d : List Byte) : List Byte := (List.range n).map (fun i => d.getD i 0xFF)

/-- A read without answer: FFh in every byte (R59, R161). A read of no byte, of an area whose length in the header is
0, is none: it fails its checks (DESIGN CHOICE, log entry 54). -/
def noAnswer (d : List Byte) : Bool := !d.isEmpty && d.all (· == 0xFF)

/-- The sum of the 16-bit words of `d` (R161). -/
def wordSum : List Byte → Nat
  | a :: b :: l => a.toNat + 256 * b.toNat + wordSum l
  | [a] => a.toNat
  | [] => 0

/-- The sum of the bytes of `d` (R62). -/
def byteSum (d : List Byte) : Nat := (d.map BitVec.toNat).sum

/-- The words of an area, its sum word included, add to 0 modulo 65,536 (R161). -/
def areaSumGood (d : List Byte) : Bool := wordSum d % 65536 == 0

/-! ## CRC-8 (R147) -/

/-- One bit of the CRC-8 with polynomial 07h. -/
def crcBit (c : Byte) : Byte := if c.msb then (c <<< 1) ^^^ 0x07 else c <<< 1

/-- One byte of the CRC-8, most significant bit first. -/
def crcByte (c b : Byte) : Byte :=
  crcBit (crcBit (crcBit (crcBit (crcBit (crcBit (crcBit (crcBit (c ^^^ b))))))))

/-- The check byte over `d`: initial value 00h, no final inversion. -/
def crc8 (d : List Byte) : Byte := d.foldl crcByte 0

/-! ## Dates (R1) -/

/-- Days of month `m` (1 to 12) of year 2000 + `y`; 0 for a month outside 1 to 12. -/
def monthLen (y m : Nat) : Nat :=
  if m = 2 then (if y % 4 = 0 then 29 else 28)
  else if m = 4 ∨ m = 6 ∨ m = 9 ∨ m = 11 then 30
  else if 1 ≤ m ∧ m ≤ 12 then 31 else 0

/-- Days of year 2000 + `y` before month `m`. -/
def daysBeforeMonth (y : Nat) : Nat → Nat
  | 0 => 0
  | m + 1 => daysBeforeMonth y m + (if m = 0 then 0 else monthLen y m)

/-- The day number of day `d` of month `m` of year 2000 + `y` (day 0 is 2000-01-01). -/
def dayNumber (y m d : Nat) : Nat := 365 * y + (y + 3) / 4 + daysBeforeMonth y m + (d - 1)

/-- The year since 2000 of a day number. -/
def yearOf (day : Nat) : Nat :=
  let r := day % 1461
  4 * (day / 1461) + (if r < 366 then 0 else 1 + (r - 366) / 365)

/-- The month of day `r` (from 0) of year `y`: the last month that begins at or before it. -/
def monthOf (y r : Nat) : Nat :=
  ((List.range 13).filter (fun m => 1 ≤ m ∧ daysBeforeMonth y m ≤ r)).getLastD 1

/-- A day number as (year since 2000, month, day). -/
def dateOf (day : Nat) : Nat × Nat × Nat :=
  let y := yearOf day
  let r := day - (365 * y + (y + 3) / 4)
  let m := monthOf y r
  (y, m, r - daysBeforeMonth y m + 1)

/-- A date within the range of 00_scope 7.2. -/
def dateValid (y m d : Nat) : Bool := decide (y ≤ 99 ∧ 1 ≤ m ∧ m ≤ 12 ∧ 1 ≤ d ∧ d ≤ monthLen y m)

/-- A month and day of R3's table, February counted as 29 days. -/
def monthDayValid (m d : Nat) : Bool := decide (1 ≤ m ∧ m ≤ 12 ∧ 1 ≤ d ∧ d ≤ monthLen 0 m)

end Sys2Proof.Machine
end

