-- ==== Sys2Proof/Machine/Operands.lean ====
section
/-! DEFINITION. The operands of commands and the bytes of frames: codes and payload layouts of
12_formats (Tables 5 to 8), the layout check of R178 for frames heard, and the bytes and bits of the
frames the station sends (R146, R147). -/

namespace Sys2Proof.Machine

/-! ## Codes -/

/-- Table 7. -/
def faultByte : FaultCode → Nat
  | .configBad => 0x01 | .imageUnreadable => 0x02 | .dupStation => 0x03
  | .cueBlockBad => 0x10 | .figureJam => 0x11 | .figureFailed => 0x12 | .overtravel => 0x13
  | .railCut => 0x14 | .withdrawn => 0x15
  | .calendarEntryBad => 0x20 | .slotMissed => 0x21 | .slotSkipped => 0x22 | .slotLost => 0x23
  | .notIncluded => 0x24 | .cueOrder => 0x25 | .cueUnderrun => 0x26 | .strikeLate => 0x27
  | .strikeListFull => 0x28 | .thermalTrim => 0x2A | .thermalSkip => 0x2B | .cutShort => 0x2C
  | .moveBusy => 0x2D | .zoneLost => 0x2E | .gateExcludedPeer => 0x2F | .txDropped => 0x30
  | .txDisplaced => 0x31 | .serviceDenied => 0x32 | .railSag => 0x33

/-- R168, the table of classes. -/
def faultClass : FaultCode → FaultClass
  | .configBad | .imageUnreadable | .dupStation => .stop
  | .cueBlockBad | .figureJam | .figureFailed | .overtravel | .railCut | .withdrawn => .degraded
  | .calendarEntryBad | .slotMissed | .slotSkipped | .slotLost | .notIncluded | .cueOrder
  | .cueUnderrun | .strikeLate | .strikeListFull | .thermalTrim | .thermalSkip | .cutShort
  | .moveBusy | .zoneLost | .gateExcludedPeer | .txDropped | .txDisplaced | .serviceDenied
  | .railSag => .advisory

/-- The place of an ADVISORY code in the order of R168's table; none for other classes. -/
def advisoryIndex : FaultCode → Option Nat
  | .calendarEntryBad => some 0 | .slotMissed => some 1 | .slotSkipped => some 2 | .slotLost => some 3
  | .notIncluded => some 4 | .cueOrder => some 5 | .cueUnderrun => some 6 | .strikeLate => some 7
  | .strikeListFull => some 8 | .thermalTrim => some 9 | .thermalSkip => some 10 | .cutShort => some 11
  | .moveBusy => some 12 | .zoneLost => some 13 | .gateExcludedPeer => some 14 | .txDropped => some 15
  | .txDisplaced => some 16 | .serviceDenied => some 17 | .railSag => some 18
  | .configBad | .imageUnreadable | .dupStation | .cueBlockBad | .figureJam | .figureFailed
  | .overtravel | .railCut | .withdrawn => none

/-- Table 6. -/
def classByte : FaultClass → Nat
  | .advisory => 1 | .degraded => 2 | .stop => 3

/-- Table 6. -/
def levelByte : Level → Nat
  | .closed => 0 | .quiet => 1 | .opened => 2

/-- Table 6. -/
def levelOfByte : Nat → Option Level
  | 0 => some .closed | 1 => some .quiet | 2 => some .opened | _ => none

/-- Table 6. -/
def reasonByte : Reason → Nat
  | .excluded => 1 | .stopped => 2 | .restart => 3 | .armingFailed => 4 | .menuChanged => 5
  | .notArmed => 6

/-- Table 5, kind codes. -/
def kindByte : Content → Nat
  | .hello _ => 0x01 | .time _ => 0x02 | .call _ _ _ _ => 0x10 | .menu _ _ _ => 0x11
  | .agree _ _ _ _ _ => 0x12 | .withdraw _ _ => 0x13 | .ready _ _ => 0x20 | .go _ _ _ => 0x21
  | .claim _ _ => 0x30 | .release _ => 0x31 | .fault _ _ => 0x40 | .status _ _ => 0x41

/-- R151, frame classes. -/
def frameClass : Content → FrameClass
  | .ready _ _ | .go _ _ _ | .claim _ _ | .release _ => .urgent
  | .call _ _ _ _ | .menu _ _ _ | .agree _ _ _ _ _ | .withdraw _ _ => .showClass
  | .hello _ | .time _ | .fault _ _ | .status _ _ => .routine

/-- Rank of a class: urgent above show above routine (R154). -/
def classRank : FrameClass → Nat
  | .routine => 0 | .showClass => 1 | .urgent => 2

/-- R151, class gap in character times. -/
def classGap : FrameClass → Nat
  | .urgent => 2 | .showClass => 4 | .routine => 6

/-! ## Frames sent -/

/-- A set as 4 bytes. -/
def set32Bytes (s : Set32) : List Byte := leBytes 4 s.toNat

/-- A zone set as 8 bytes. -/
def zoneSetBytes (s : ZoneSet) : List Byte := leBytes 8 s.toNat

/-- The payload of a TIME (Table 5): grade, year − 2000, month, day, weekday, time of day in ms. -/
def timePayload (grade ms : Nat) : List Byte :=
  let day := ms / Config.dayMs
  let d := dateOf day
  leBytes 1 grade ++ leBytes 1 d.1 ++ leBytes 1 d.2.1 ++ leBytes 1 d.2.2 ++ leBytes 1 (day % 7)
    ++ leBytes 4 (ms % Config.dayMs)

/-- The payload of a frame (Table 5). A TIME whose values are not taken yet has none of its own: the
values at grade 0 and day 0 stand in (never sent, R151). -/
def payloadBytes : Content → List Byte
  | .hello r => [r]
  | .time none => timePayload 0 0
  | .time (some v) => timePayload v.1 v.2
  | .call slot pref menu level =>
      leBytes 2 slot ++ leBytes 1 pref ++ set32Bytes menu ++ leBytes 1 (levelByte level)
  | .menu slot caller menu => leBytes 2 slot ++ leBytes 1 caller ++ set32Bytes menu
  | .agree slot prog level hour members =>
      leBytes 2 slot ++ leBytes 1 prog ++ leBytes 1 (levelByte level) ++ leBytes 1 hour
        ++ set32Bytes members
  | .withdraw slot reason => leBytes 2 slot ++ leBytes 1 (reasonByte reason)
  | .ready slot gate => leBytes 2 slot ++ leBytes 1 gate
  | .go slot gate members => leBytes 2 slot ++ leBytes 1 gate ++ set32Bytes members
  | .claim r zones => leBytes 1 (if r then 1 else 0) ++ zoneSetBytes zones
  | .release zones => zoneSetBytes zones
  | .fault code detail =>
      leBytes 1 (faultByte code) ++ leBytes 1 (classByte (faultClass code)) ++ leBytes 1 detail
  | .status page contents => leBytes 1 page ++ contents

/-- The characters of a frame from station `src` (R147): kind, source, length, payload, check byte. -/
def frameBytes (src : Nat) (c : Content) : List Byte :=
  let body := leBytes 1 (kindByte c) ++ leBytes 1 src ++ leBytes 1 (payloadBytes c).length
    ++ payloadBytes c
  body ++ [crc8 body]

/-- The number of characters of a frame: payload length + 4 (R147). -/
def frameChars (c : Content) : Nat := (payloadBytes c).length + 4

/-- The 11 bits of a character on the line (R146): start, data least significant first, mark, stop. -/
def charBits (b : Byte) (mark : Bool) : List Bool :=
  [false] ++ (List.range 8).map (fun i => b.getLsbD i) ++ [mark, true]

/-- The bits of a frame on the line: the mark bit is 1 on its first character only (R146). -/
def frameBits : List Byte → List Bool
  | [] => []
  | k :: l => charBits k true ++ l.flatMap (fun b => charBits b false)

/-! ## Frames heard (R178) -/

/-- A slot id a frame may carry. -/
def slotIdValid (n : Nat) : Bool := decide (n ≤ 1439 ∨ n = Config.serviceSlot)

/-- Entries 0 and 31 of a station set are disregarded (R178). -/
def stationMask (s : Set32) : Set32 := s &&& 0x7FFFFFFE

/-- A source or caller number of a show station. -/
def isStation (n : Nat) : Bool := decide (1 ≤ n ∧ n ≤ 30)

/-- A heard CALL. -/
structure CallIn where
  slot : Nat
  pref : Nat
  menu : Set32
  level : Level
  deriving DecidableEq, Repr

/-- R178 for CALL: a level code above 2, or CLOSED for a slot other than 2047, is ignored. -/
def parseCall (p : List Byte) : Option CallIn :=
  match levelOfByte (byteAt p 7) with
  | none => none
  | some level =>
    if p.length = 8 ∧ slotIdValid (le16 p 0) ∧ byteAt p 2 ≤ 31
        ∧ (level ≠ .closed ∨ le16 p 0 = Config.serviceSlot) then
      some ⟨le16 p 0, byteAt p 2, set32At p 3, level⟩
    else none

/-- A heard MENU. -/
structure MenuIn where
  slot : Nat
  caller : Nat
  menu : Set32
  deriving DecidableEq, Repr

/-- R178 for MENU. -/
def parseMenu (p : List Byte) : Option MenuIn :=
  if p.length = 7 ∧ slotIdValid (le16 p 0) then some ⟨le16 p 0, byteAt p 2, set32At p 3⟩ else none

/-- A heard AGREE. -/
structure AgreeIn where
  slot : Nat
  prog : Nat
  level : Level
  hour : Nat
  members : Set32
  deriving DecidableEq, Repr

/-- R178 for AGREE. -/
def parseAgree (p : List Byte) : Option AgreeIn :=
  match levelOfByte (byteAt p 3) with
  | none => none
  | some level =>
    if p.length = 9 ∧ slotIdValid (le16 p 0) ∧ byteAt p 2 ≤ 31 ∧ level ≠ .closed
        ∧ 1 ≤ byteAt p 4 ∧ byteAt p 4 ≤ 12 then
      some ⟨le16 p 0, byteAt p 2, level, byteAt p 4, stationMask (set32At p 5)⟩
    else none

/-- R178 for WITHDRAW: the slot it names; the reason is not judged. -/
def parseWithdraw (p : List Byte) : Option Nat :=
  if p.length = 3 ∧ slotIdValid (le16 p 0) then some (le16 p 0) else none

/-- R178 for READY: slot and gate number. -/
def parseReady (p : List Byte) : Option (Nat × Nat) :=
  if p.length = 3 ∧ slotIdValid (le16 p 0) then some (le16 p 0, byteAt p 2) else none

/-- A heard GO. -/
structure GoIn where
  slot : Nat
  gate : Nat
  members : Set32
  deriving DecidableEq, Repr

/-- R178 for GO. -/
def parseGo (p : List Byte) : Option GoIn :=
  if p.length = 7 ∧ slotIdValid (le16 p 0) then
    some ⟨le16 p 0, byteAt p 2, stationMask (set32At p 3)⟩
  else none

/-- R178 for CLAIM: the reassert flag, 00h or 01h, and the zone set. -/
def parseClaim (p : List Byte) : Option (Bool × ZoneSet) :=
  if p.length = 9 ∧ byteAt p 0 ≤ 1 then some (byteAt p 0 == 1, zoneSetAt p 1) else none

/-- R178 for RELEASE. -/
def parseRelease (p : List Byte) : Option ZoneSet :=
  if p.length = 8 then some (zoneSetAt p 0) else none

/-- A heard TIME: grade and the carried date and time in ms since 2000-01-01. -/
structure TimeIn where
  grade : Nat
  ms : Nat
  deriving DecidableEq, Repr

/-- R178 and R12 for TIME: date, weekday or time of day out of range, or a grade above 15, is
discarded. -/
def parseTime (p : List Byte) : Option TimeIn :=
  let day := dayNumber (byteAt p 1) (byteAt p 2) (byteAt p 3)
  if p.length = 9 ∧ dateValid (byteAt p 1) (byteAt p 2) (byteAt p 3) ∧ byteAt p 4 = day % 7
      ∧ le32 p 5 < Config.dayMs ∧ byteAt p 0 ≤ 15 then
    some ⟨byteAt p 0, day * Config.dayMs + le32 p 5⟩
  else none

/-- R178 for SET_TIME: day number and time of day in ms as carried. -/
def parseSetTime (p : List Byte) : Option (Nat × Nat) :=
  if p.length = 7 ∧ dateValid (byteAt p 0) (byteAt p 1) (byteAt p 2) then
    some (dayNumber (byteAt p 0) (byteAt p 1) (byteAt p 2), le32 p 3)
  else none

/-- R178 for PLAY_NOW: target set and programme. -/
def parsePlayNow (p : List Byte) : Option (Set32 × Nat) :=
  if p.length = 5 ∧ byteAt p 4 ≤ 31 then some (stationMask (set32At p 0), byteAt p 4) else none

/-- R178 for QUIET_UNTIL: target set and minute, FFFFh to cancel. -/
def parseQuietUntil (p : List Byte) : Option (Set32 × Nat) :=
  if p.length = 6 then some (stationMask (set32At p 0), le16 p 4) else none

/-- R178 for STATUS_QUERY: target and page. -/
def parseStatusQuery (p : List Byte) : Option (Nat × Nat) :=
  if p.length = 2 then some (byteAt p 0, byteAt p 1) else none

/-- R178 for RESTART: target set. -/
def parseRestart (p : List Byte) : Option Set32 :=
  if p.length = 4 then some (stationMask (set32At p 0)) else none

/-- R178 for HELLO. -/
def parseHello (p : List Byte) : Option Byte :=
  if p.length = 1 then some (p.getD 0 0) else none

end Sys2Proof.Machine
end

