-- ==== Sys2Proof/Machine/Ops.lean ====
section
/-! DEFINITION. The named operations shared by the blocks: time, clock readings, table access,
counters, faults (R168 to R171), and the transmit queue with its reports of loss (R153 to R156). -/

namespace Sys2Proof.Machine

/-! ## Updates of one block -/

/-- `s` with its IML changed. -/
def State.modIml (f : Iml → Iml) (s : State) : State := { s with iml := f s.iml }
/-- `s` with its SCK changed. -/
def State.modSck (f : Sck → Sck) (s : State) : State := { s with sck := f s.sck }
/-- `s` with its SHE changed. -/
def State.modShe (f : She → She) (s : State) : State := { s with she := f s.she }
/-- `s` with its GTU changed. -/
def State.modGtu (f : Gtu → Gtu) (s : State) : State := { s with gtu := f s.gtu }
/-- `s` with its CSQ changed. -/
def State.modCsq (f : Csq → Csq) (s : State) : State := { s with csq := f s.csq }
/-- `s` with its BEL changed. -/
def State.modBel (f : Bel → Bel) (s : State) : State := { s with bel := f s.bel }
/-- `s` with its FIG changed. -/
def State.modFig (f : Fig → Fig) (s : State) : State := { s with fig := f s.fig }
/-- `s` with its ZON changed. -/
def State.modZon (f : Zon → Zon) (s : State) : State := { s with zon := f s.zon }
/-- `s` with its CHR changed. -/
def State.modChr (f : Chr → Chr) (s : State) : State := { s with chr := f s.chr }
/-- `s` with its BIF changed. -/
def State.modBus (f : Bus → Bus) (s : State) : State := { s with bus := f s.bus }
/-- `s` with its FLT changed. -/
def State.modFlt (f : Flt → Flt) (s : State) : State := { s with flt := f s.flt }

/-! ## Time -/

/-- `s` at moment `t`, or at the present moment where `t` lies in the past (log entry 1). -/
def State.at (t : Nat) (s : State) : State := { s with now := max s.now t }

/-- A timer runs and its deadline has come. -/
def expired (timer : Option Nat) (now : Nat) : Bool :=
  match timer with
  | some d => decide (d ≤ now)
  | none => false

/-- A command's meaning from its effect: at its moment, and without effect while the reset pin is held
low, when every block holds its full-reset values (R16; log entry 4). -/
def event (t : Nat) (f : State → State) (s : State) : Host.Outcome State Fault Refusal :=
  .next (if s.inReset then s.at t else f (s.at t))

/-! ## Clock readings (R1, R12) -/

/-- The clock in ms since 2000-01-01. It advances one ms for each ms of crystal time; within a slew
period of negative slew it stands once 63 ms have passed, and each slew period's expiry sets it to the
period's full advance (DESIGN CHOICE, log entry 7). While the reset pin is low it stays at its
full-reset reading (R16; log entry 4). -/
def clockMs (s : State) : Nat :=
  if s.inReset then s.sck.clkMs
  else s.sck.clkMs + (if s.sck.slew < 0 then min ((s.now - s.sck.clkAt) / Config.msUs) 63
    else (s.now - s.sck.clkAt) / Config.msUs)

/-- The day number (R1). -/
def dayNo (s : State) : Nat := clockMs s / Config.dayMs

/-- The time of day in ms (R1). -/
def timeOfDay (s : State) : Nat := clockMs s % Config.dayMs

/-- The minute of day (R1). -/
def minuteOfDay (s : State) : Nat := timeOfDay s / Config.minuteMs

/-! ## Station -/

/-- The station's own number; 0, no station's number, while it has none (R162). -/
def ownNo (s : State) : Nat := s.iml.number.getD 0

/-- IN_SERVICE, or STOPPED without the muted flag: the states in which owners queue frames. -/
def maySend (s : State) : Bool :=
  s.iml.station == .inService || (s.iml.station == .stopped && !s.iml.muted)

/-- STOPPED with the muted flag set (R160). -/
def isMuted (s : State) : Bool := s.iml.station == .stopped && s.iml.muted

/-- The station is in a show: ARMING to SETTLING (chapter 2). -/
def inShow (s : State) : Bool :=
  match s.she.engine with
  | .arming | .gateWait | .running | .settling => true
  | .idle | .callWait | .calling | .answered => false

/-! ## Tables -/

/-- The entry of zone `z`. -/
def zoneAt (s : State) (z : Nat) : ZoneEntry := s.zon.view.getD z .free

/-- Entry of zone `z` set. -/
def setZone (z : Nat) (e : ZoneEntry) (s : State) : State :=
  s.modZon fun zon => { zon with view := zon.view.set z e }

/-- The state of figure `f`. -/
def figRun (s : State) (f : Nat) : FigRun := s.fig.run.getD f FigRun.reset

/-- The record of figure `f`, none where it is not configured. -/
def figRec (s : State) (f : Nat) : Option FigRec := s.fig.figs.getD f none

/-- Figure `f` changed. -/
def modFigRun (f : Nat) (g : FigRun → FigRun) (s : State) : State :=
  s.modFig fun fig => { fig with run := fig.run.set f (g (fig.run.getD f FigRun.reset)) }

/-- The configured figures, ascending. -/
def figNumbers (s : State) : List Nat := (List.range 7).filter (fun f => (figRec s f).isSome)

/-- The record of bell `b`, none where it is not configured. -/
def bellRec (s : State) (b : Nat) : Option BellRec := s.bel.bells.getD b none

/-- The state of bell `b`. -/
def bellRun (s : State) (b : Nat) : BellRun := s.bel.run.getD b BellRun.rest

/-- Bell `b` changed. -/
def modBellRun (b : Nat) (g : BellRun → BellRun) (s : State) : State :=
  s.modBel fun bel => { bel with run := bel.run.set b (g (bel.run.getD b BellRun.rest)) }

/-- The configured bells, ascending. -/
def bellNumbers (s : State) : List Nat := (List.range 13).filter (fun b => (bellRec s b).isSome)

/-! ## Counters and faults -/

/-- A counter raised by `n`; it stays at 255 (R39, R148, R169). -/
def bump (n c : Nat) : Nat := min 255 (c + n)

/-- SUPPRESSED raised by `n` (R169). -/
def addSuppressed (n : Nat) (s : State) : State :=
  s.modFlt fun f => { f with suppressed := bump n f.suppressed }

/-- MOVE_SKIPPED raised by 1 (R169). -/
def addMoveSkipped (s : State) : State :=
  s.modFlt fun f => { f with moveSkipped := bump 1 f.moveSkipped }

/-- The ADVISORY counter of a code raised by 1; other codes have none (R168 step 2, R169). -/
def countAdvisory (code : FaultCode) (cs : List Nat) : List Nat :=
  match advisoryIndex code with
  | some i => cs.set i (bump 1 (cs.getD i 0))
  | none => cs

/-- Steps 1 and 2 of R168: the record at the head of the list, of at most 8, and the count. -/
def recordFault (code : FaultCode) (detail : Nat) (s : State) : State :=
  s.modFlt fun f =>
    { f with
      list := (⟨code, detail, dayNo s, minuteOfDay s⟩ :: f.list).take 8
      counters := countAdvisory code f.counters }

/-- R171: a fault of this code and detail brings a FAULT frame. -/
def reportsFault (s : State) (code : FaultCode) (detail : Nat) : Bool :=
  maySend s
    && (match faultClass code with
        | .stop => true
        | .degraded => s.flt.maskDegraded
        | .advisory => s.flt.maskAdvisory)
    && !((code == .txDisplaced || code == .txDropped) && detail == 0x40)

/-- A frame appended to the transmit queue as its youngest. -/
def appendFrame (c : Content) (s : State) : State :=
  s.modBus fun b => { b with queue := b.queue ++ [⟨b.nextId, c⟩], nextId := b.nextId + 1 }

/-- R168: a fault raised. The FAULT frame of R171 is routine, so a full queue refuses it, and that
TX_DISPLACED with detail 40h brings no further frame (R156, R171). -/
def raiseFault (code : FaultCode) (detail : Nat) (s : State) : State :=
  let s1 := recordFault code detail s
  if reportsFault s code detail then
    if s1.bus.queue.length < 8 then appendFrame (.fault code detail) s1
    else recordFault .txDisplaced 0x40 s1
  else s1

/-! ## Engine: back to IDLE -/

/-- The jam-homing wait of a figure at an entry of the engine to IDLE (R113). -/
def startJamWait (now : Nat) (r : FigRun) : FigRun :=
  if r.state = .jammed ∧ r.jamWait = .owed then { r with jamWait := .until (now + Config.jamWaitUs) }
  else r

/-- The engine enters IDLE: every record is discarded (R17) and owed jam-homing waits start (R113). -/
def enterIdle (s : State) : State :=
  (s.modShe fun _ => ⟨.idle, none, none, none, none⟩).modFig
    fun fig => { fig with run := fig.run.map (startJamWait s.now) }

/-- The last-slot record written; a write of slot 2047 leaves it unchanged (R10). -/
def writeLastSlot (slot day : Nat) (s : State) : State :=
  if slot = Config.serviceSlot then s else s.modSck fun k => { k with lastSlot := some (slot, day) }

/-! ## The transmit queue -/

/-- The frame in transmission, its attempts not over (R151). -/
def inTransmission (s : State) (id : Nat) : Bool := s.bus.current == some id

/-- A frame of the queue whose first attempt has not begun. -/
def stillQueued (s : State) (id : Nat) : Bool :=
  s.bus.queue.any (fun f => f.id == id) && !inTransmission s id

/-- An owner removes its frame, if its first attempt has not begun (R151). -/
def removeFrame (id : Nat) (s : State) : State :=
  if inTransmission s id then s
  else s.modBus fun b => { b with queue := b.queue.filter (fun f => f.id != id) }

/-- The owner removes frames of a shape whose first attempt has not begun. -/
def removeFrames (p : Content → Bool) (s : State) : State :=
  s.modBus fun b =>
    { b with queue := b.queue.filter (fun f => !p f.content || b.current == some f.id) }

/-- The lowest class rank among frames; `r` where there is none below it. -/
def lowestRank (r : Nat) (q : List TxFrame) : Nat :=
  q.foldl (fun m f => min m (classRank (frameClass f.content))) r

/-- R156: what a full queue gives up for a frame of rank `r`: the youngest displaceable frame of the
lowest class present among the displaceable ones, if that class is lower. -/
def victim (current : Option Nat) (r : Nat) (q : List TxFrame) : Option TxFrame :=
  let d := q.filter (fun f => current != some f.id)
  let low := lowestRank r d
  if low < r then (d.filter (fun f => classRank (frameClass f.content) == low)).getLast? else none

/-- R156: the queue after a frame asks to enter, and the frame displaced or refused, if any. -/
def queueEntry (current : Option Nat) (q : List TxFrame) (f : TxFrame) : List TxFrame × Option TxFrame :=
  if q.length < 8 then (q ++ [f], none)
  else
    match victim current (classRank (frameClass f.content)) q with
    | some v => (q.filter (fun g => g.id != v.id) ++ [f], some v)
    | none => (q, some f)

/-! ### Loss reports (R153) -/

/-- Zones PENDING for the own claim of this frame revert to FREE. -/
def revertOwnGroup (frame : Nat) (s : State) : State :=
  s.modZon fun z =>
    { z with view := z.view.map fun e =>
        match e with
        | .pending st g _ _ => if st = ownNo s ∧ g = frame then .free else e
        | .free | .held _ _ => e }

/-- The request whose CLAIM is this frame returns to WAITING at the head of the list (R119). -/
def requestToHead (frame : Nat) (s : State) : State :=
  s.modZon fun z =>
    { z with reqs :=
        (z.reqs.filter (fun r => r.state == .claiming frame)).map (fun r => { r with state := .waiting })
          ++ z.reqs.filter (fun r => r.state != .claiming frame) }

/-- SHE's action on the loss of its CALL (R22). -/
def callLost (frame : Nat) (s : State) : State :=
  match s.she.gather with
  | some g =>
    if g.callFrame = frame ∧ s.she.engine = .calling then raiseFault .slotLost (ownNo s) (enterIdle s) else s
  | none => s

/-- SHE's action on the loss of its MENU (R24). -/
def menuLost (frame : Nat) (s : State) : State :=
  match s.she.answer with
  | some a =>
    if a.menuFrame = frame ∧ s.she.engine = .answered then raiseFault .slotLost a.caller (enterIdle s) else s
  | none => s

/-- SHE's action on the loss of its AGREE (R29): it also writes the last-slot record. -/
def agreeLost (frame : Nat) (s : State) : State :=
  match s.she.gather, s.she.pend with
  | some g, some p =>
    if g.agree.map (·.frame) = some frame ∧ s.she.engine = .calling then
      raiseFault .slotLost (ownNo s) (writeLastSlot g.slot p.day (enterIdle s))
    else s
  | _, _ => s

/-- GTU's action on the loss of its READY (R43): it is queued again at the next frame end. -/
def readyLost (frame : Nat) (s : State) : State :=
  match s.gtu.gate with
  | some g =>
    if g.readyFrame = some frame ∧ g.phase = .readyQueued then
      s.modGtu fun u => { u with gate := some { g with readyFrame := none, readyLost := some s.bus.frameEnds } }
    else s
  | none => s

/-- GTU's action on the loss of its GO (R48): the gate timer starts again with 100 ms. -/
def goLost (frame : Nat) (s : State) : State :=
  match s.gtu.gate with
  | some g =>
    if g.goFrame = some frame ∧ g.phase = .ready then
      s.modGtu fun u => { u with gate := some { g with goFrame := none, timer := some (s.now + Config.staggerUs) } }
    else s
  | none => s

/-- ZON's action on the loss of its CLAIM (R121): the group reverts, the request goes to the head, and
the list is tried again at the next frame end only. -/
def claimLost (frame : Nat) (s : State) : State :=
  (requestToHead frame (revertOwnGroup frame s)).modZon
    fun z => { z with claimRetry := some s.bus.frameEnds }

/-- The owner of a frame acts on its loss (R153). -/
def onLoss (f : TxFrame) (s : State) : State :=
  match f.content with
  | .call _ _ _ _ => callLost f.id s
  | .menu _ _ _ => menuLost f.id s
  | .agree _ _ _ _ _ => agreeLost f.id s
  | .ready _ _ => readyLost f.id s
  | .go _ _ _ => goLost f.id s
  | .claim false _ => claimLost f.id s
  | .release zones => s.modZon fun z => { z with releaseLost := z.releaseLost ++ [(s.bus.frameEnds, zones)] }
  | .hello _ =>
    if s.iml.helloPending then s.modIml fun i => { i with helloLost := some s.bus.frameEnds } else s
  | .claim true _ | .withdraw _ _ | .time _ | .fault _ _ | .status _ _ => s

/-- R156: an owner queues a frame, whose number is `s.bus.nextId`. The owner has written what it
remembers of the frame before, so that a loss at once finds it. -/
def queueFrame (c : Content) (s : State) : State :=
  let r := queueEntry s.bus.current s.bus.queue ⟨s.bus.nextId, c⟩
  let s1 := s.modBus fun b => { b with queue := r.1, nextId := b.nextId + 1 }
  match r.2 with
  | none => s1
  | some v => raiseFault .txDisplaced (kindByte v.content) (onLoss v s1)

/-- Whether a frame is a TIME. -/
def isTime : Content → Bool
  | .time _ => true
  | .hello _ | .call _ _ _ _ | .menu _ _ _ | .agree _ _ _ _ _ | .withdraw _ _ | .ready _ _ | .go _ _ _
  | .claim _ _ | .release _ | .fault _ _ | .status _ _ => false

/-- Whether a frame is a STATUS. -/
def isStatus : Content → Bool
  | .status _ _ => true
  | .hello _ | .call _ _ _ _ | .menu _ _ _ | .agree _ _ _ _ _ | .withdraw _ _ | .ready _ _ | .go _ _ _
  | .claim _ _ | .release _ | .fault _ _ | .time _ => false

/-- R155: a TIME merges with a TIME already in the queue. -/
def queueTime (s : State) : State :=
  if s.bus.queue.any (fun f => isTime f.content) then s else queueFrame (.time none) s

/-- R155: a STATUS takes the place of a queued one whose first attempt has not begun, and is refused
beside one whose first attempt has. -/
def queueStatus (page : Nat) (contents : List Byte) (s : State) : State :=
  match s.bus.queue.find? (fun f => isStatus f.content) with
  | none => queueFrame (.status page contents) s
  | some g =>
    if inTransmission s g.id then s
    else s.modBus fun b =>
      { b with queue := b.queue.map fun f => if f.id == g.id then { f with content := .status page contents } else f }

end Sys2Proof.Machine
end

