-- ==== Sys2Proof/Machine/Flags.lean ====
section
/-! DEFINITION. Flags, conditions and pins that the spec describes as functions of other state: stored
nowhere, computed here (log entry 35). -/

namespace Sys2Proof.Machine

/-! ## Bus line (R146, R151) -/

/-- A bit time in µs (R146). -/
def bitUs (s : State) : Nat := if s.bus.fast then 4 else 16

/-- A character time in µs: 11 bit times (R146). -/
def charUs (s : State) : Nat := if s.bus.fast then 44 else 176

/-- A 12 bit break in µs (R152). -/
def breakUs (s : State) : Nat := if s.bus.fast then 48 else 192

/-- The idle time of the line in µs (R146). -/
def idleTime (s : State) : Nat := s.now - s.bus.idleFrom

/-- The access gap of a frame in µs (R151): class gap, plus station number mod 4, plus 2 for each failed
attempt, in character times. -/
def accessGap (s : State) (c : Content) (fails : Nat) : Nat :=
  (classGap (frameClass c) + ownNo s % 4 + 2 * fails) * charUs s

/-- The transmitter is on and may start attempts (R150, R159): also in LISTENING, where no frame is queued. -/
def transmitterOn (s : State) : Bool := (s.iml.station == .listening || maySend s) && !s.bus.dup

/-- The driver enable BDE: on during an attempt and during a break (R146). -/
def driverEnable (s : State) : Bool :=
  match s.bus.tx with
  | .sending | .breaking _ _ => true
  | .idle | .retryWait => false

/-- WAITING: the transmitter is IDLE and the queue holds a frame (R151). -/
def txWaiting (s : State) : Bool := s.bus.tx == .idle && !s.bus.queue.isEmpty

/-- The frame in transmission. -/
def currentFrame (s : State) : Option TxFrame :=
  s.bus.queue.find? (fun f => s.bus.current == some f.id)

/-- The characters the station sends in the present attempt (R147). -/
def txBytes (s : State) : List Byte :=
  match s.bus.tx, currentFrame s with
  | .sending, some f => frameBytes (ownNo s) f.content
  | _, _ => []

/-- The level of BTX now (R146; log entry 34): the bit of the attempt whose time it is, 0 during a break, and the
mark, 1, on the idle line. -/
def transmitData (s : State) : Bool :=
  match s.bus.tx with
  | .sending => (frameBits (txBytes s)).getD ((s.now - s.bus.attemptAt) / bitUs s) true
  | .breaking _ _ => false
  | .idle | .retryWait => true

/-! ## Peer table (R157) -/

/-- The number of PRESENT entries. -/
def peersPresent (s : State) : Nat :=
  (s.bus.peers.filter fun p => match p with | .present _ => true | .unknown | .silent => false).length

/-! ## Degraded conditions and the fault pin (R170) -/

/-- The figures in a state. -/
def figsIn (s : State) (st : FigState) : List Nat :=
  (List.range 7).filter fun f => decide ((figRun s f).state = st)

/-- The figure homes after a jam (R112). -/
def homesFromJam (r : FigRun) : Bool := decide (r.state = .homing) && r.run.any (·.fromJam)

/-- The figures with the condition "jammed figure" (R99, R170; R112 step 3, log entry 17). -/
def jammedFigures (s : State) : List Nat :=
  (List.range 7).filter fun f =>
    decide ((figRun s f).state = .jammed) || homesFromJam (figRun s f) && Config.jamConditionWhileHoming

/-- The programmes marked bad. -/
def badProgrammes (s : State) : List Nat :=
  (List.range 32).filter fun p => (s.csq.directory.getD p DirEntry.absent).bad

/-- At least one active degraded condition is present (R170). -/
def degraded (s : State) : Bool :=
  !(jammedFigures s).isEmpty || !(figsIn s .failed).isEmpty || s.chr.rail == .cut
    || !(badProgrammes s).isEmpty

/-- The fault pin FLTO is on (R170). It is off while the reset pin is held low (R177). -/
def faultPin (s : State) : Bool :=
  s.iml.station == .stopped || (degraded s && s.flt.pinOnDegraded)

/-! ## Ceilings (R7, R77) -/

/-- The calendar entry in force. -/
def entryInForce (s : State) : Option CalEntry :=
  match s.sck.entry with
  | some i => s.sck.calendar[i]?
  | none => none

/-- The open ceiling of the entry in force; 0 while no configuration is loaded (R7). -/
def openCeiling (s : State) : Nat := ((entryInForce s).map (·.openCeiling)).getD 0

/-- The show in progress is a service show (slot 2047). -/
def serviceShow (s : State) : Bool := (s.she.showRec.map (·.slot)) == some Config.serviceSlot

/-- The velocity ceiling of a level (R7). -/
def ceiling (s : State) : Level → Nat
  | .opened => openCeiling s
  | .quiet => min s.sck.quietCeiling (openCeiling s)
  | .closed => if serviceShow s then min s.sck.quietCeiling (openCeiling s) else 0

/-- The rail ceiling (R77). -/
def railCeiling (s : State) : Nat :=
  match s.chr.rail with
  | .normal => 127
  | .sag => 64
  | .cut => 0

/-- The more restrictive of two levels, CLOSED counting as QUIET (R77). -/
def restrictive (a b : Level) : Level := if a = .opened ∧ b = .opened then .opened else .quiet

/-! ## Pulse slots (R76, R81) -/

/-- A hammer is PULSING. -/
def isPulsing : Hammer → Bool
  | .pulsing _ => true
  | .idle | .recovering _ => false

/-- The pulse slots held: one for each PULSING hammer. -/
def slotsHeld (s : State) : Nat := (s.bel.run.filter fun r => isPulsing r.hammer).length

/-- Every damper of the station is DOWN (R88). -/
def dampersDown (s : State) : Bool := s.bel.run.all fun r => r.damper == .down

/-! ## Lamps (R137, R138) -/

/-- The lamp hold is in force: CLOSED, but for a show of slot 2047. -/
def lampHold (s : State) : Bool := s.sck.level == .closed && !(inShow s && serviceShow s)

/-- A lamp channel's state. -/
def lampAt (s : State) (ch : Nat) : Lamp := s.chr.lamps.getD ch ⟨0, none⟩

/-- A lamp's output level: the level last worked, at a lamp period, a cue or the lifting of the hold, or 0 under the
hold (R137, R138). -/
def lampOutput (s : State) (ch : Nat) : Nat := if lampHold s then 0 else (lampAt s ch).level

/-- A lamp's level at moment `now`: start + (target − start) × t ÷ duration, rounded toward zero, and
the target from the end of the fade on (R137). -/
def fadeLevel (l : Lamp) (now : Nat) : Nat :=
  match l.fade with
  | none => l.level
  | some f =>
    if f.at_ + f.dur ≤ now then f.target
    else if f.start ≤ f.target then f.start + (f.target - f.start) * (now - f.at_) / f.dur
    else f.start - (f.start - f.target) * (now - f.at_) / f.dur

/-! ## Sensors (R140) -/

/-- A sensor's record. -/
def sensRec (s : State) (n : Nat) : SensRec := s.chr.sensorTab.getD n .off

/-- A sensor's state. -/
def sensRun (s : State) (n : Nat) : SensRun := s.chr.sensors.getD n ⟨false, none, none⟩

/-- A HOME or LIMIT sensor is active: its filtered level equals its polarity (R140). -/
def sensorActive (s : State) (n : Nat) : Bool :=
  match sensRec s n with
  | .home hi | .limit hi => (sensRun s n).filtered == some hi
  | .off | .encoder _ => false

/-! ## Channels (R133 to R139) -/

/-- A channel's record. -/
def chanRec (s : State) (ch : Nat) : ChanRec := s.chr.channels.getD ch ⟨.off, .bar⟩

/-- The output of a channel is on at the present moment. Every output is released until a
configuration is accepted and from a service restart on (R133). -/
def outputOn (s : State) (ch : Nat) : Bool :=
  s.iml.accepted &&
    match (chanRec s ch).kind with
    | .off => false
    | .hammer => (bellNumbers s).any fun b =>
        ((bellRec s b).map (·.hammer)) == some ch && isPulsing (bellRun s b).hammer
    | .damper => (bellNumbers s).any fun b =>
        ((bellRec s b).bind (·.damper)) == some ch && (bellRun s b).damper != .down
    | .motorPwm => (figNumbers s).any fun f =>
        ((figRec s f).map (·.motor)) == some ch
          && decide (2 * (s.now - s.chr.pwmStart) < (figRun s f).duty)
    | .motorDir => (figNumbers s).any fun f =>
        ((figRec s f).map (·.dir)) == some ch && (figRun s f).lastOut
    | .lamp => decide (s.now - s.chr.lampStart < lampOutput s ch * 1000 / 255)
    | .strobe => s.chr.strobeEnd.isSome

/-! ## Gate rank (R47) -/

/-- The station's rank: its position among the stations in both sets, ascending. -/
def gateRank (own : Nat) (readySet members : Set32) : Nat :=
  ((Bits.toList (readySet &&& members)).filter (fun n => n ≤ own)).length

/-- The gate timer's deadline (R47). -/
def gateDeadline (s : State) (g : GateRec) (members : Set32) : Nat :=
  g.readyMoment + s.gtu.limit * 1000000
    + (gateRank (ownNo s) g.readySet members - 1) * Config.staggerUs

end Sys2Proof.Machine
end

