-- ==== Sys2Proof/Machine/Walk.lean ====
section
/-! DEFINITION. The walk of a programme and the beat clock's arithmetic (R56 to R61, R64, R67, R69): pure
readings of the Cue Sequencer's state. -/

namespace Sys2Proof.Machine

/-! ## Parts and sections (R57) -/

/-- A part's length in ticks (R57). -/
def Part.length (p : Part) : Nat := p.introLen + p.loops * p.bodyLen + p.codaLen

/-- A section's cue range. -/
def Part.range (p : Part) : Section → CueRange
  | .intro => p.intro
  | .body => p.body
  | .coda => p.coda

/-- A section's length in ticks. -/
def Part.secLen (p : Part) : Section → Nat
  | .intro => p.introLen
  | .body => p.bodyLen
  | .coda => p.codaLen

/-- How often a section is walked. -/
def Part.passes (p : Part) : Section → Nat
  | .intro | .coda => 1
  | .body => p.loops

/-- The part tick of section tick `t` in a pass of a section (R57). -/
def Part.tickOf (p : Part) (sec : Section) (pass t : Nat) : Nat :=
  match sec with
  | .intro => t
  | .body => p.introLen + pass * p.bodyLen + t
  | .coda => p.introLen + p.loops * p.bodyLen + t

/-- The order of sections. -/
def secNo : Section → Nat
  | .intro => 0
  | .body => 1
  | .coda => 2

/-- A part that has no ticks and no cues; stands for an index past the header's parts. -/
def Part.nil : Part := ⟨60, 4, false, 0, 0, 0, 0, ⟨0, 0⟩, ⟨0, 0⟩, ⟨0, 0⟩⟩

/-- The parts of the header in use; none while there is none. -/
def partsOf (s : State) : List Part := s.csq.parts.getD []

/-- Part `i` of a header. -/
def partAt (ps : List Part) (i : Nat) : Part := ps.getD i Part.nil

/-- The sections that hold cues to walk, in walk order. -/
def walkSections (ps : List Part) : List (Nat × Section) :=
  (List.range ps.length).flatMap fun i =>
    ([Section.intro, Section.body, Section.coda].filter fun sec =>
      decide (0 < ((partAt ps i).range sec).count ∧ 0 < (partAt ps i).passes sec)).map fun sec => (i, sec)

/-- The first position of the walk. -/
def firstPos (ps : List Part) : Option Pos :=
  ((walkSections ps).head?).map fun x => ⟨x.1, x.2, 0, 0⟩

/-- The first position of part `i` or of a later part. -/
def firstPosFrom (ps : List Part) (i : Nat) : Option Pos :=
  ((walkSections ps).find? fun x => decide (i ≤ x.1)).map fun x => ⟨x.1, x.2, 0, 0⟩

/-- The first position of the next pass or section (R57). -/
def nextStart (ps : List Part) (p : Pos) : Option Pos :=
  if p.pass + 1 < (partAt ps p.part).passes p.sec then some { p with pass := p.pass + 1, idx := 0 }
  else
    ((walkSections ps).find? fun x =>
      decide (p.part < x.1 ∨ (p.part = x.1 ∧ secNo p.sec < secNo x.2))).map fun x => ⟨x.1, x.2, 0, 0⟩

/-- The next position of the walk (R57). -/
def nextPos (ps : List Part) (p : Pos) : Option Pos :=
  if p.idx + 1 < ((partAt ps p.part).range p.sec).count then some { p with idx := p.idx + 1 }
  else nextStart ps p

/-- Two positions lie in one section pass. -/
def samePass (p q : Pos) : Bool := p.part == q.part && p.sec == q.sec && p.pass == q.pass

/-- Walk order. -/
def posLt (p q : Pos) : Bool :=
  decide (p.part < q.part ∨ (p.part = q.part ∧ (secNo p.sec < secNo q.sec ∨ (p.sec = q.sec ∧
    (p.pass < q.pass ∨ (p.pass = q.pass ∧ p.idx < q.idx))))))

/-! ## Blocks and items (R60) -/

/-- The library index of a position's cue. -/
def cueIndex (ps : List Part) (p : Pos) : Nat := ((partAt ps p.part).range p.sec).first + p.idx

/-- The block of a position's cue. -/
def blockOf (ps : List Part) (p : Pos) : Nat := cueIndex ps p / 32

/-- How many passes a walk has. -/
def passTotal (ps : List Part) : Nat := (ps.map fun p => p.loops + 2).sum

/-- How many cues a walk has. -/
def walkLength (ps : List Part) : Nat :=
  (ps.map fun p => p.intro.count + p.loops * p.body.count + p.coda.count).sum

/-- The first later position whose block is not `b`; `n` bounds the passes looked through. -/
def nextItemFrom (ps : List Part) (b : Nat) : Nat → Pos → Option Pos
  | 0, _ => none
  | n + 1, p =>
    let r := (partAt ps p.part).range p.sec
    let k := (b + 1) * 32 - r.first
    if k < r.count then some { p with idx := k }
    else
      match nextStart ps p with
      | none => none
      | some q => if blockOf ps q = b then nextItemFrom ps b n q else some q

/-- The first position of the item after the one that a position lies in (R60). -/
def nextItem (ps : List Part) (p : Pos) : Option Pos :=
  nextItemFrom ps (blockOf ps p) (passTotal ps + 1) p

/-! ## Cursors (R57, R58) -/

/-- A cursor moved to a later position of the walk: it keeps its predecessor tick within one section
pass only (R58), and its item number rises where the block changes (R60). -/
def Cursor.moveTo (ps : List Part) (c : Cursor) (p : Pos) (prev : Option Nat) : Option Pos → Cursor
  | none => { c with pos := none, item := c.item + 1, prev := none }
  | some q =>
    { c with
      pos := some q
      item := if blockOf ps q = blockOf ps p then c.item else c.item + 1
      prev := if samePass p q then prev else none }

/-- A cursor past its cue. -/
def Cursor.step (ps : List Part) (prev : Option Nat) (c : Cursor) : Cursor :=
  match c.pos with
  | none => c
  | some p => c.moveTo ps p prev (nextPos ps p)

/-- A cursor past a BAD block: at the first cue of the next item (R62). -/
def Cursor.skipItem (ps : List Part) (c : Cursor) : Cursor :=
  match c.pos with
  | none => c
  | some p => c.moveTo ps p c.prev (nextItem ps p)

/-- The slot that holds an item. -/
def slotOf (s : State) (item : Nat) : Option CueSlot :=
  if s.csq.slotA.state ≠ .empty ∧ s.csq.slotA.item = item then some s.csq.slotA
  else if s.csq.slotB.state ≠ .empty ∧ s.csq.slotB.item = item then some s.csq.slotB
  else none

/-- What a pointer finds at its position. -/
inductive CueView where
  | ended | unread | badBlock | cue (p : Pos) (q : Cue)
  deriving DecidableEq, Repr

/-- The HOURSTRIKE cue of the built-in programme (R56). -/
def builtinCue (s : State) : Cue := ⟨3, 0, s.bel.hourBell.getD 0, 127, 48, 0⟩

/-- What a cursor finds (R60 to R63). The built-in programme's cue counts as held in a READY slot
(R56). -/
def cueView (s : State) (c : Cursor) : CueView :=
  match c.pos with
  | none => .ended
  | some p =>
    if s.csq.builtin then .cue p (builtinCue s)
    else
      match slotOf s c.item with
      | none => .unread
      | some sl =>
        match sl.state with
        | .ready => .cue p (sl.cues.getD (cueIndex (partsOf s) p % 32) ⟨0, 0, 0, 0, 0, 0⟩)
        | .bad => .badBlock
        | .empty | .filling => .unread

/-! ## Cue checks (R58) -/

/-- The field checks of R58. -/
def fieldsValid (s : State) (q : Cue) : Bool :=
  match q.kind with
  | 2 => q.b == 1 || q.b == 2
  | 3 => decide (1 ≤ q.c)
  | 4 => decide (25 ≤ q.c ∧ q.c ≤ 200)
  | 5 => (chanRec s q.a).kind == .lamp
  | 6 => decide (30 ≤ q.a ∧ q.a ≤ 240)
  | 1 | 7 => true
  | _ => false

/-- A cue passes the checks of R58: order, range, kind, fields. -/
def cueValid (s : State) (ps : List Part) (p : Pos) (prev : Option Nat) (q : Cue) : Bool :=
  decide (prev.getD 0 ≤ q.tick) && decide (q.tick < (partAt ps p.part).secLen p.sec) && fieldsValid s q

/-- A STRIKE or HOURSTRIKE, by its kind code. -/
def isStrikeKind (q : Cue) : Bool := q.kind == 1 || q.kind == 3

/-- A cue's part tick. -/
def cueTick (ps : List Part) (p : Pos) (q : Cue) : Nat := (partAt ps p.part).tickOf p.sec p.pass q.tick

/-! ## The beat clock (R64) -/

/-- The show time of part tick `t` in a segment. -/
def tauOf (g : Segment) (t : Nat) : Int := g.tau0 + ((t : Int) - g.tick0) * 2500000 / g.tempo

/-- The show time now. -/
def showTime (s : State) : Int :=
  if s.csq.running then s.csq.anchorTau + ((s.now : Int) - s.csq.anchorReal) else s.csq.tau

/-- The real moment of a show time. -/
def realOf (s : State) (tau : Int) : Int := s.csq.anchorReal + (tau - s.csq.anchorTau)

/-- The segment that begins `n` part starts after `g` (R64, R65). -/
def rollParts (ps : List Part) : Nat → Segment → Segment
  | 0, g => g
  | n + 1, g =>
    rollParts ps n
      ⟨g.part + 1, tauOf g (partAt ps g.part).length, 0, (partAt ps (g.part + 1)).tempo⟩

/-- The segment at part `i`. -/
def rollTo (ps : List Part) (i : Nat) (g : Segment) : Segment := rollParts ps (i - g.part) g

/-! ## Looking ahead (R64, R67, R69) -/

/-- What lies ahead of a cursor: the segment in force there, whether a GATE cue with the gate record's
number was met, and the item of the first block met that is not READY, if one was. -/
structure Ahead where
  seg : Segment
  gate : Bool
  unread : Option Nat
  deriving DecidableEq, Repr

/-- The number of the gate record. -/
def gateNumber (s : State) : Option Nat := s.gtu.gate.bind (·.number)

/-- The least part tick of a valid cue at a position whose section pass has the predecessor tick `prev`
(R57, R58). -/
def leastTick (ps : List Part) (p : Pos) (prev : Option Nat) : Nat :=
  (partAt ps p.part).tickOf p.sec p.pass (prev.getD 0)

/-- Reads the walk from a cursor until a position `stopAt`, by itself and its predecessor tick, or a
valid cue `stopOn`, by its position and part tick; takes up the TEMPO and GATE cues passed. `n` bounds
the cues read. -/
def lookAhead (s : State) (stopAt : Pos → Option Nat → Bool) (stopOn : Pos → Nat → Bool) :
    Nat → Cursor → Ahead → Ahead
  | 0, _, a => a
  | n + 1, c, a =>
    match c.pos with
    | none => a
    | some p =>
      if stopAt p c.prev then a
      else
        match cueView s c with
        | .ended => a
        | .unread => { a with unread := some c.item }
        | .badBlock => lookAhead s stopAt stopOn n (c.skipItem (partsOf s)) a
        | .cue _ q =>
          if cueValid s (partsOf s) p c.prev q then
            let t := cueTick (partsOf s) p q
            if stopOn p t then a
            else
              let g := rollTo (partsOf s) p.part a.seg
              let a' := match q.kind with
                | 6 => { a with seg := ⟨p.part, tauOf g t, t, q.a⟩ }
                | 7 => { a with gate := a.gate || gateNumber s == some q.a }
                | _ => a
              lookAhead s stopAt stopOn n (c.step (partsOf s) (some q.tick)) a'
          else lookAhead s stopAt stopOn n (c.step (partsOf s) c.prev) a

/-- Cues a look-ahead may read. -/
def lookFuel (s : State) : Nat := walkLength (partsOf s) + passTotal (partsOf s) + 1

/-- The GATE cues of the run of tick `t` of part `part` from a cursor on, as far as READY slots hold it:
each with the cursor that stands at it and its number (R67). `n` bounds the cues read. -/
def gatesOfRun (s : State) (part t : Nat) : Nat → Cursor → List (Cursor × Nat)
  | 0, _ => []
  | n + 1, c =>
    match cueView s c with
    | .ended | .unread => []
    | .badBlock => gatesOfRun s part t n (c.skipItem (partsOf s))
    | .cue p q =>
      if cueValid s (partsOf s) p c.prev q then
        if p.part = part ∧ cueTick (partsOf s) p q = t then
          let rest := gatesOfRun s part t n (c.step (partsOf s) (some q.tick))
          if q.kind = 7 then (c, q.a) :: rest else rest
        else []
      else gatesOfRun s part t n (c.step (partsOf s) c.prev)

/-- What decides a strike of part tick `t` at the lead pointer: the planned segment of its part, whether
a gate holds it, and the unread item into which its run reaches (R64, R69). The run ends with its section
pass, since every cue of a later one has a later part tick. A cue of the same pass in a block not READY,
its tick not known yet, counts as one of the run (DESIGN CHOICE, log entry 43). A BAD block ends the run: the block
behind it, not read before the pointers have left the strike's own (R61), is not waited for (DESIGN CHOICE, log
entry 43); behind a READY one that the run fills it is (log entry 43). -/
def strikeAhead (s : State) (p : Pos) (q : Cue) : Ahead :=
  let ps := partsOf s
  let t := cueTick ps p q
  let a0 : Ahead := ⟨s.csq.seg, false, none⟩
  let between := match s.csq.play.pos with
    | some pp => if posLt pp p then
        lookAhead s (fun x _ => x == p) (fun _ _ => false) (lookFuel s) s.csq.play a0 else a0
    | none => a0
  let run := lookAhead s (fun x _ => !samePass p x) (fun _ u => u != t) (lookFuel s)
    (s.csq.lead.step ps (some q.tick)) ⟨between.seg, between.gate, none⟩
  let next := slotOf s (s.csq.lead.item + 1)
  ⟨rollTo ps p.part between.seg, run.gate,
    run.unread.filter fun _ => !next.any fun sl => decide (sl.state = .bad)⟩

/-- What decides a wake-up of tick `t` of part `part`: a strike cue placed after every cue whose part
tick is `t` or less (R70). The walk is read up to that place: to a position at which no valid cue has a
part tick of `t` or less, or to a cue that has a later one. -/
def wakeAhead (s : State) (part t : Nat) : Ahead :=
  let ps := partsOf s
  let a := lookAhead s
    (fun x prev => decide (part < x.part ∨ (x.part = part ∧ t < leastTick ps x prev)))
    (fun x u => x.part == part && decide (t < u)) (lookFuel s) s.csq.play ⟨s.csq.seg, false, none⟩
  ⟨rollTo ps part a.seg, a.gate, a.unread⟩

end Sys2Proof.Machine
end

