-- ==== Sys2Proof/Machine/Gate.lean ====
section
/-! DEFINITION. The Gate Unit (chapter 3): the gate record, readiness, the ready set, release and
clearing. Taking a GO, which may withdraw the station, stands with the Show Engine. -/

namespace Sys2Proof.Machine

/-- The participant set of the show record; empty while there is none. -/
def participants (s : State) : Set32 := (s.she.showRec.map (·.members)).getD 0

/-- The slot of the show in progress. -/
def showSlot (s : State) : Nat := (s.she.showRec.map (·.slot)).getD 0

/-- The gate record changed. -/
def modGate (f : GateRec → GateRec) (s : State) : State :=
  s.modGtu fun u => { u with gate := u.gate.map f }

/-- The engine state changed, its records kept. -/
def setEngine (e : Engine) (s : State) : State := s.modShe fun h => { h with engine := e }

/-- A gate record of gate 0 (R40). -/
def GateRec.zero (now : Nat) : GateRec :=
  { number := some 0, phase := .standing, readySet := 0, leadIn := some (now + Config.leadInUs)
    readyMoment := 0, timer := none, settle := none, readyFrame := none, goFrame := none
    readyLost := none }

/-- R40: gate 0 opens at the end of the AGREE. -/
def openGate0 (s : State) : State := s.modGtu fun u => { u with gate := some (GateRec.zero s.now) }

/-! ## Readiness (R40, R42, R43) -/

/-- The slot of an item holds its block, READY or (at a gate past 0) BAD. -/
def itemHeld (s : State) (item : Nat) (badToo : Bool) : Bool :=
  match slotOf s item with
  | some sl => sl.state == .ready || (badToo && sl.state == .bad)
  | none => false

/-- Both pointers have passed an item: its block has been held, though its slot may hold a later one (DEDUCED, log
entry 50). -/
def itemPassed (s : State) (item : Nat) : Bool := decide (item < min s.csq.play.item s.csq.lead.item)

/-- R40, third condition: the first cue of the walk, in item 1, is held, or there is none. -/
def firstCueHeld (s : State) : Bool :=
  s.csq.builtin ||
    match s.csq.play.pos with
    | none => true
    | some _ => itemHeld s 1 false || itemPassed s 1

/-- R42, second condition: every MOVE of this show has ended (R116). -/
def movesEnded (s : State) : Bool := s.fig.run.all fun r => !r.showMove

/-- R42, third condition: the first cue after the gate is held READY or BAD, or there is none. A cue whose item is
neither of the two resident is not held (DESIGN CHOICE, log entry 51). -/
def nextCueHeld (s : State) : Bool :=
  match s.csq.gateAfter with
  | some (some _, item) => s.csq.builtin || itemHeld s item true || itemPassed s item
  | some (none, _) => true
  | none => false

/-- The conditions of R40 at gate 0 and of R42 at a later gate. -/
def gateReady (s : State) (g : GateRec) : Bool :=
  g.phase == .standing &&
    match g.number with
    | none => false
    | some 0 => g.leadIn.isNone && s.csq.parts.isSome && firstCueHeld s
    | some (_ + 1) => movesEnded s && nextCueHeld s

/-- The READY of the gate record queued (R43); the record holds its number. -/
def queueReady (g : GateRec) (s : State) : State :=
  queueFrame (.ready (showSlot s) (g.number.getD 0))
    (modGate (fun g => { g with readyFrame := some s.bus.nextId, readyLost := none }) s)

/-- R43, steps 1 and 2. -/
def becomeReady (g : GateRec) (s : State) : State :=
  queueReady g (setEngine .gateWait (modGate (fun g => { g with phase := .readyQueued }) s))

/-- The readiness check of R40 and R42. -/
def gateCheck (s : State) : State :=
  match s.gtu.gate with
  | some g => if gateReady s g then becomeReady g s else s
  | none => s

/-! ## Release (R45) -/

/-- The gate number after a release; none after gate 255. -/
def nextGate : Option Nat → Option Nat
  | some n => if n < 255 then some (n + 1) else none
  | none => none

/-- R45: the steps of a release. -/
def releaseGate (g : GateRec) (s : State) : State :=
  (match g.goFrame with
    | some id => removeFrame id s
    | none => s).modGtu fun u =>
    { u with
      gate := some { g with
        number := nextGate g.number, phase := .released, readySet := 0, timer := none
        settle := some (s.now + Config.settleUs), readyFrame := none, goFrame := none
        readyLost := none } }

/-- Every participant is in the ready set. -/
def allReady (s : State) (g : GateRec) : Bool := Bits.subset (participants s) g.readySet

/-- The check for release (R45). -/
def checkRelease (s : State) : State :=
  match s.gtu.gate with
  | some g => if g.phase = .ready ∧ allReady s g then releaseGate g s else s
  | none => s

/-- R47: the deadline is worked out again while the gate timer runs. A deadline that has passed is due
at the GATE_TIMER_EXPIRY that follows at the same moment (log entry 31). -/
def recomputeGate (s : State) : State :=
  match s.gtu.gate with
  | some g =>
    if g.phase = .ready ∧ g.timer.isSome then
      modGate (fun g => { g with timer := some (gateDeadline s g (participants s)) }) s
    else s
  | none => s

/-! ## READY (R43, R44) -/

/-- R44: a READY heard, for a slot and a gate, from a source. -/
def takeReady (src slot gate : Nat) (s : State) : State :=
  match s.gtu.gate with
  | none => s
  | some g =>
    if slot = showSlot s ∧ Bits.mem (participants s) src then
      if g.number = some gate then
        if Bits.mem g.readySet src then s
        else checkRelease (recomputeGate
          (modGate (fun g => { g with readySet := Bits.insert g.readySet src }) s))
      else s.modGtu fun u => { u with stray := bump 1 u.stray }
    else s

/-- R43, steps 3 to 6: the own READY of this number is read back. -/
def readyReadBack (id : Nat) (s : State) : State :=
  match s.gtu.gate with
  | none => s
  | some g =>
    if g.phase = .readyQueued ∧ g.readyFrame = some id then
      let g1 := { g with
        readySet := Bits.insert g.readySet (ownNo s), phase := .ready, readyMoment := s.now
        readyFrame := none }
      checkRelease (s.modGtu fun u =>
        { u with gate := some { g1 with timer := some (gateDeadline s g1 (participants s)) } })
    else s

/-! ## GO (R48, R49) -/

/-- R48: the gate timer expires in phase READY; a GO is queued. -/
def gateTimerExpires (g : GateRec) (s : State) : State :=
  queueFrame (.go (showSlot s) (g.number.getD 0) (g.readySet &&& participants s))
    (modGate (fun g => { g with timer := none, goFrame := some s.bus.nextId }) s)

/-- The participant set changed. -/
def setMembers (m : Set32) (s : State) : State :=
  s.modShe fun h => { h with showRec := h.showRec.map fun r => { r with members := m } }

/-- R49, step 1: one ADVISORY for each other station that the GO removes, ascending. -/
def excludePeers (s : State) (removed : List Nat) : State :=
  removed.foldl (fun s n => if n = ownNo s then s else raiseFault .gateExcludedPeer n s) s

/-! ## Removals (R35, R36) and clearing (R52) -/

/-- A participant leaves the set; the deadline and the release are worked out again. -/
def removeMember (n : Nat) (s : State) : State :=
  if inShow s ∧ Bits.mem (participants s) n then
    checkRelease (recomputeGate (setMembers (Bits.erase (participants s) n) s))
  else s

/-- Whether a frame is a READY or a GO. -/
def isGateFrame : Content → Bool
  | .ready _ _ | .go _ _ _ => true
  | .hello _ | .time _ | .call _ _ _ _ | .menu _ _ _ | .agree _ _ _ _ _ | .withdraw _ _ | .claim _ _
  | .release _ | .fault _ _ | .status _ _ => false

/-- R52: the gate record is cleared. -/
def clearGate (s : State) : State :=
  (removeFrames isGateFrame s).modGtu fun u => { u with gate := none }

end Sys2Proof.Machine
end

