-- ==== Sys2Proof/Machine/Zone.lean ====
section
/-! DEFINITION. The Zone Unit (chapter 7): the zone view, the own request list, claims, reasserts and
releases. Grants are left in `zon.granted` and trials in `zon.trialDue`; the Figure Unit's layer takes
both up before the step ends (log entry 13). -/

namespace Sys2Proof.Machine

/-! ## The view (R118) -/

/-- Zone `z` is held by this station for figure `f`. -/
def heldFor (s : State) (f z : Nat) : Bool := zoneAt s z == .held (ownNo s) (some f)

/-- Zone `z` is held by this station for some figure. -/
def heldForFigure (s : State) (z : Nat) : Bool :=
  match zoneAt s z with
  | .held st (some _) => st == ownNo s
  | .free | .pending _ _ _ _ | .held _ none => false

/-- Zone `z` is releasing: held by this station with no figure. -/
def releasing (s : State) (z : Nat) : Bool := zoneAt s z == .held (ownNo s) none

/-- The zones with a property, ascending. -/
def zonesWhere (p : Nat → Bool) : List Nat := (List.range 64).filter p

/-- The zones held for figure `f`. -/
def heldZones (s : State) (f : Nat) : List Nat := zonesWhere (heldFor s f)

/-- Every entry of the view worked over, with its zone. -/
def mapView (g : Nat → ZoneEntry → ZoneEntry) (s : State) : State :=
  s.modZon fun z => { z with view := z.view.mapIdx g }

/-- A trial of the list is owed before the step ends (R120). -/
def oweTrial (s : State) : State := s.modZon fun z => { z with trialDue := true }

/-- A trial is owed if a condition holds. -/
def oweTrialIf (b : Bool) (s : State) : State := if b then oweTrial s else s

/-! ## Reasserts (R125) -/

/-- Whether a frame is a reassert that names a zone no longer held for a figure. -/
def staleReassert (s : State) : Content → Bool
  | .claim true zones => (Bits.toList zones).any fun z => !heldForFigure s z
  | .claim false _ | .hello _ | .time _ | .call _ _ _ _ | .menu _ _ _ | .agree _ _ _ _ _
  | .withdraw _ _ | .ready _ _ | .go _ _ _ | .release _ | .fault _ _ | .status _ _ => false

/-- A queued reassert that names a zone no longer held for a figure is removed. -/
def pruneReasserts (s : State) : State := removeFrames (staleReassert s) s

/-- No reassert naming zone `z` was queued in the last 100 ms; one queued exactly 100 ms ago lies outside
them (DESIGN CHOICE, log entry 46). -/
def reassertAllowed (s : State) (z : Nat) : Bool :=
  match s.zon.reassertAt.getD z none with
  | none => true
  | some t => decide (t + Config.reassertUs ≤ s.now)

/-- R125: a reassert of those of these zones that are held for figures is queued, under the rate limit
where it applies. A muted station queues none. -/
def queueReassert (limited : Bool) (zones : List Nat) (s : State) : State :=
  let named := zones.filter fun z => heldForFigure s z && (!limited || reassertAllowed s z)
  if isMuted s ∨ named = [] then s
  else queueFrame (.claim true (Bits.ofList 64 named)) (s.modZon fun zon =>
    { zon with reassertAt := zon.reassertAt.mapIdx fun z t => if z ∈ named then some s.now else t })

/-! ## Releasing (R128) -/

/-- R128: the Figure Unit asks for zones of a figure to be released. -/
def releaseAsk (f : Nat) (zones : List Nat) (s : State) : State :=
  let named := zones.filter (heldFor s f)
  if named = [] then s
  else
    let s1 := pruneReasserts
      (mapView (fun z e => if z ∈ named then .held (ownNo s) none else e) s)
    if isMuted s then s1 else queueFrame (.release (Bits.ofList 64 named)) s1

/-- R128: the own RELEASE is read back. -/
def releaseReadBack (zones : ZoneSet) (s : State) : State :=
  oweTrial (mapView (fun z e =>
    if Bits.mem zones z ∧ e = .held (ownNo s) none then .free else e) s)

/-- R128: one lost RELEASE is queued again with the zones that are still releasing. -/
def requeueRelease (s : State) (zones : ZoneSet) : State :=
  let named := (Bits.toList zones).filter (releasing s)
  if named = [] then s else queueFrame (.release (Bits.ofList 64 named)) s

/-- R128: the lost RELEASEs for which a frame has ended since are queued again. -/
def requeueReleases (s : State) : State :=
  let due := s.zon.releaseLost.filter fun r => decide (r.1 < s.bus.frameEnds)
  (due.map (·.2)).foldl requeueRelease (s.modZon fun z =>
    { z with releaseLost := z.releaseLost.filter fun r => !decide (r.1 < s.bus.frameEnds) })

/-! ## Requests (R119, R131) -/

/-- The request of a figure. -/
def requestOf (s : State) (f : Nat) : Option ZoneReq := s.zon.reqs.find? fun r => r.figure == f

/-- The own group of a CLAIM lapses: its entries keep no figure (R131). -/
def lapseGroup (frame : Nat) (s : State) : State :=
  mapView (fun _ e =>
    match e with
    | .pending st g w _ => if st = ownNo s ∧ g = frame then .pending st g w none else e
    | .free | .held _ _ => e) s

/-- A request leaves the list. -/
def dropRequest (f : Nat) (s : State) : State :=
  s.modZon fun z => { z with reqs := z.reqs.filter fun r => r.figure != f }

/-- R131: the Figure Unit withdraws a request. -/
def withdrawRequest (f : Nat) (s : State) : State :=
  match requestOf s f with
  | none => s
  | some r =>
    match r.state with
    | .waiting => oweTrial (dropRequest f s)
    | .claiming frame =>
      if stillQueued s frame then
        oweTrial (dropRequest f (revertOwnGroup frame (removeFrame frame s)))
      else oweTrial (dropRequest f (lapseGroup frame s))

/-- R119: a request is entered, at the head for a lost hold. -/
def enterRequest (atHead : Bool) (f : Nat) (zones : List Nat) (s : State) : State :=
  oweTrial ((withdrawRequest f s).modZon fun z =>
    { z with reqs := if atHead then ⟨f, zones, .waiting⟩ :: z.reqs else z.reqs ++ [⟨f, zones, .waiting⟩] })

/-- Requests whose claim is among these return to WAITING at the head of the list, in their order
(R119; log entry 36). -/
def requestsToHead (lost : Nat → Bool) (s : State) : State :=
  let hit : ZoneReq → Bool := fun r =>
    match r.state with
    | .waiting => false
    | .claiming frame => lost frame
  s.modZon fun z =>
    { z with reqs := (z.reqs.filter hit).map (fun r => { r with state := .waiting })
        ++ z.reqs.filter fun r => !hit r }

/-! ## The trial (R120, R121) -/

/-- R120: a zone makes a request of figure `f` wait, by its entry. -/
def zoneBlocks (s : State) (f z : Nat) : Bool :=
  match zoneAt s z with
  | .free => false
  | .pending st _ _ fig => st != ownNo s || fig != some f
  | .held st fig => st != ownNo s || fig != some f

/-- R120: a request waits. -/
def requestWaits (s : State) (earlier : List ZoneReq) (r : ZoneReq) : Bool :=
  r.zones.any fun z => zoneBlocks s r.figure z || earlier.any fun e => e.zones.contains z

/-- R122: a request is granted: it leaves the list, and its figure is to be told. -/
def grantRequest (f : Nat) (s : State) : State :=
  (dropRequest f s).modZon fun z => { z with granted := z.granted ++ [f] }

/-- R121: the FREE zones of a request are claimed in one CLAIM. -/
def claimZones (r : ZoneReq) (s : State) : State :=
  let free := r.zones.filter fun z => zoneAt s z == .free
  let id := s.bus.nextId
  queueFrame (.claim false (Bits.ofList 64 free)) ((mapView (fun z e =>
      if z ∈ free then .pending (ownNo s) id none (some r.figure) else e) s).modZon fun zon =>
    { zon with reqs := zon.reqs.map fun q =>
        if q.figure = r.figure then { q with state := .claiming id } else q })

/-- R120: the request of figure `f` is judged. -/
def tryRequest (s : State) (f : Nat) : State :=
  match requestOf s f with
  | none => s
  | some r =>
    if r.state ≠ .waiting ∨ requestWaits s (s.zon.reqs.takeWhile fun q => q.figure != f) r then s
    else if r.zones.all (heldFor s f) then grantRequest f s
    else claimZones r s

/-- R120: one trial of the list. -/
def tryList (s : State) : State :=
  (s.zon.reqs.map (·.figure)).foldl tryRequest (s.modZon fun z => { z with trialDue := false })

/-! ## Groups (R118) -/

/-- The group of an entry. -/
def groupOf : ZoneEntry → Option (Nat × Nat)
  | .pending st g _ _ => some (st, g)
  | .free | .held _ _ => none

/-- The groups that hold a zone of a set, of the stations with a property. -/
def groupsIn (s : State) (zones : ZoneSet) (p : Nat → Bool) : List (Nat × Nat) :=
  ((Bits.toList zones).filterMap fun z => groupOf (zoneAt s z)).filter fun g => p g.1

/-- Groups are voided as a whole (R118). -/
def voidGroups (gs : List (Nat × Nat)) (s : State) : State :=
  mapView (fun _ e =>
    match groupOf e with
    | some g => if g ∈ gs then .free else e
    | none => e) s

/-- Own claims are lost or voided: a CLAIM that has not begun leaves the queue, and the requests return
to the head of the list (R123, R126). -/
def loseOwnClaims (frames : List Nat) (s : State) : State :=
  requestsToHead (fun g => frames.contains g) (frames.foldl (fun s g => removeFrame g s) s)

/-! ## CLAIM (R121, R123) -/

/-- The zones of `zones` in the view, for a claim of `src`: R123, step 3.3. -/
def recordClaim (src group : Nat) (zones : ZoneSet) (s : State) : State :=
  mapView (fun z e =>
    if Bits.mem zones z then
      match e with
      | .held st f => if st = src then .held st f else .pending src group (some (s.now + Config.claimUs)) none
      | .free | .pending _ _ _ _ => .pending src group (some (s.now + Config.claimUs)) none
    else e) s

/-- R123: a CLAIM of station `src`. For the own late readback of R121 the source is the own number, and
neither a reassert is queued nor an own claim lost. -/
def judgeClaim (src group : Nat) (zones : ZoneSet) (s : State) : State :=
  let zl := Bits.toList zones
  if zl.any (fun z => match zoneAt s z with
      | .held st _ => st != src
      | .free | .pending _ _ _ _ => false) then
    if src = ownNo s then s else queueReassert true zl s
  else if zl.any (fun z => match zoneAt s z with
      | .pending st _ _ _ => decide (st < src)
      | .free | .held _ _ => false) then s
  else
    let gs := groupsIn s zones (fun st => decide (src < st))
    let own := (gs.filter fun g => g.1 == ownNo s).map (·.2)
    recordClaim src group zones (oweTrialIf (!gs.isEmpty) (loseOwnClaims own (voidGroups gs s)))

/-- R123: a heard CLAIM, reassert flag clear. -/
def takeClaim (src : Nat) (zones : ZoneSet) (s : State) : State :=
  if isStation src ∧ src ≠ ownNo s ∧ zones ≠ 0 ∧ Bits.mem zones 0 = false then
    judgeClaim src s.now zones s
  else s

/-- R121: the own CLAIM of this number is read back. Its window starts; a claim that was lost or voided
is judged by R123. A claim not lost whose zones an older one's late readback has all taken over has no
entry left for a window: its request returns to the head of the list (DESIGN CHOICE, log entry 45). -/
def claimReadBack (id : Nat) (zones : ZoneSet) (s : State) : State :=
  if s.zon.view.any (fun e => groupOf e == some (ownNo s, id)) then
    mapView (fun _ e =>
      match e with
      | .pending st g w f =>
        if st = ownNo s ∧ g = id then .pending st g (some (s.now + Config.claimUs)) f
        else .pending st g w f
      | .free | .held _ _ => e) s
  else if s.zon.reqs.any (fun r => r.state == .claiming id) then oweTrial (requestsToHead (· == id) s)
  else judgeClaim (ownNo s) id zones s

/-! ## Reassert (R126) -/

/-- The entry of a zone named by a reassert of `src`. -/
def reassertEntry (own src : Nat) (e : ZoneEntry) : ZoneEntry :=
  match e with
  | .held st (some f) => if st = own ∧ own < src then .held st (some f) else .held src none
  | .held _ none | .free | .pending _ _ _ _ => .held src none

/-- The figure that loses zone `z` to a reassert of `src`. -/
def figureLosing (s : State) (src z : Nat) : Option Nat :=
  match zoneAt s z with
  | .held st (some f) => if st = ownNo s ∧ src < st then some f else none
  | .held _ none | .free | .pending _ _ _ _ => none

/-- The zones and figures that lose a hold to a reassert, ascending by zone. -/
def holdsLost (s : State) (src : Nat) (zones : ZoneSet) : List (Nat × Nat) :=
  (Bits.toList zones).filterMap fun z => (figureLosing s src z).map fun f => (z, f)

/-- R126: the view's part of a heard reassert; the counter-reassert is queued after the Figure Unit is
told of the holds lost. -/
def takeReassert (src : Nat) (zones : ZoneSet) (s : State) : State :=
  let gs := groupsIn s zones (fun _ => true)
  let own := (gs.filter fun g => g.1 == ownNo s).map (·.2)
  let s1 := mapView (fun z e => if Bits.mem zones z then reassertEntry (ownNo s) src e else e) s
  let freed := s1.zon.view.any fun e =>
    match groupOf e with
    | some g => decide (g ∈ gs)
    | none => false
  pruneReasserts (oweTrialIf (freed || !own.isEmpty) (loseOwnClaims own (voidGroups gs s1)))

/-! ## Window ends (R122, R124) -/

/-- The own groups whose window has ended, by their CLAIM's number. -/
def endedOwnGroups (s : State) : List Nat :=
  (s.zon.view.filterMap fun e =>
    match e with
    | .pending st g (some w) _ => if st = ownNo s ∧ w ≤ s.now then some g else none
    | .pending _ _ none _ | .free | .held _ _ => none).dedup

/-- The zones of an own group. -/
def ownGroupZones (s : State) (g : Nat) : List Nat :=
  zonesWhere fun z => groupOf (zoneAt s z) == some (ownNo s, g)

/-- The zones of an own group become HELD by this station, for a figure or releasing. -/
def holdGroup (g : Nat) (fig : Option Nat) (s : State) : State :=
  mapView (fun _ e => if groupOf e = some (ownNo s, g) then .held (ownNo s) fig else e) s

/-- R122, R131: the window of an own group ends. -/
def ownWindowEnds (s : State) (g : Nat) : State :=
  let zones := ownGroupZones s g
  match s.zon.reqs.find? (fun r => r.state == .claiming g) with
  | some r =>
    let s1 := holdGroup g (some r.figure) s
    let s2 := if g ∈ s.zon.marks then queueReassert true zones s1 else s1
    if r.zones.all (heldFor s2 r.figure) then grantRequest r.figure s2
    else oweTrial (requestsToHead (· == g) s2)
  | none =>
    let s1 := holdGroup g none s
    if isMuted s then s1 else queueFrame (.release (Bits.ofList 64 zones)) s1

/-- The own windows that have ended are worked, and discard marks of groups that are gone dropped. -/
def ownWindowsEnd (s : State) : State :=
  let s1 := (endedOwnGroups s).foldl ownWindowEnds s
  s1.modZon fun z =>
    { z with marks := z.marks.filter fun g => z.view.any fun e => groupOf e == some (ownNo s, g) }

/-- R124: the windows of other stations' groups that have ended. -/
def peerWindowsEnd (s : State) : State :=
  mapView (fun _ e =>
    match e with
    | .pending st g (some w) f =>
      if st ≠ ownNo s ∧ w ≤ s.now then .held st none else .pending st g (some w) f
    | .pending _ _ none _ | .free | .held _ _ => e) s

/-- R122: the Bus Interface reports a discarded frame; every own claim in its window is marked. -/
def markDiscard (s : State) : State :=
  s.modZon fun z =>
    { z with marks := (z.marks ++ z.view.filterMap fun e =>
        match e with
        | .pending st g (some _) _ => if st = ownNo s then some g else none
        | .pending _ _ none _ | .free | .held _ _ => none).dedup }

/-! ## RELEASE, HELLO, silence (R129, R130) -/

/-- The station of an entry. -/
def stationOf : ZoneEntry → Option Nat
  | .free => none
  | .pending st _ _ _ => some st
  | .held st _ => some st

/-- The zones of a set held or claimed by `src` become FREE; the list is tried if any did. -/
def freeZones (src : Nat) (p : Nat → Bool) (s : State) : State :=
  oweTrialIf ((zonesWhere p).any fun z => stationOf (zoneAt s z) == some src)
    (mapView (fun z e => if p z ∧ stationOf e = some src then .free else e) s)

/-- R129: a heard RELEASE; a named zone 0 is passed over. -/
def takeRelease (src : Nat) (zones : ZoneSet) (s : State) : State :=
  if isStation src ∧ src ≠ ownNo s then freeZones src (fun z => decide (1 ≤ z) && Bits.mem zones z) s else s

/-- R130: everything held or claimed by a station that restarted or fell silent becomes FREE, and the
list is tried. -/
def freeStation (src : Nat) (s : State) : State :=
  if isStation src ∧ src ≠ ownNo s then oweTrial (freeZones src (fun _ => true) s) else s

/-! ## Muting (R131) -/

/-- Whether a frame is a CLAIM, a reassert or a RELEASE. -/
def isZoneFrame : Content → Bool
  | .claim _ _ | .release _ => true
  | .hello _ | .time _ | .call _ _ _ _ | .menu _ _ _ | .agree _ _ _ _ _ | .withdraw _ _ | .ready _ _
  | .go _ _ _ | .fault _ _ | .status _ _ => false

/-- R131: the station becomes STOPPED with the muted flag set. An own group not yet read back reverts
to FREE, its CLAIM begun or not (log entry 22); one in its window lapses. -/
def muteZones (s : State) : State :=
  (mapView (fun _ e =>
    match e with
    | .pending st g w _ =>
      if st = ownNo s then
        match w with
        | none => .free
        | some _ => .pending st g w none
      else e
    | .free | .held _ _ => e) (removeFrames isZoneFrame s)).modZon
    fun z => { z with reqs := [], releaseLost := [], claimRetry := none, trialDue := false, granted := [] }

end Sys2Proof.Machine
end

