-- ==== Sys2Proof/Machine/Figure.lean ====
section
/-! DEFINITION. The Figure Unit (chapter 6): duty, legs, arrival, jams, overtravel, homing, parking,
the rail, lost zones, withdrawal; and the hand-over of zone grants (R122). -/

namespace Sys2Proof.Machine

/-! ## Motor (R103, R107, R109) -/

/-- The motor of a figure at a duty: from above 0 to 0 the coast timer starts and the jam timer stops;
from 0 to above 0 the jam timer starts. -/
def FigRun.withDuty (now jamMs d : Nat) (r : FigRun) : FigRun :=
  { r with
    duty := d
    coast := if 0 < r.duty ∧ d = 0 then some (now + Config.coastUs) else r.coast
    jam := if d = 0 then none else if r.duty = 0 then some (now + jamMs * Config.msUs) else r.jam }

/-- The motor off with the coast timer started; a reversal hold ends. -/
def FigRun.off (now : Nat) (r : FigRun) : FigRun :=
  { r with duty := 0, coast := some (now + Config.coastUs), jam := none, hold := none }

/-- The jam time of a figure, in ms. -/
def jamTime (s : State) (f : Nat) : Nat := ((figRec s f).map (·.jamMs)).getD 0

/-- A duty ordered for figure `f`. -/
def setDuty (f d : Nat) (s : State) : State := modFigRun f (FigRun.withDuty s.now (jamTime s f) d) s

/-- The motor of figure `f` off, coast timer started. -/
def motorOff (f : Nat) (s : State) : State := modFigRun f (FigRun.off s.now) s

/-- |a − b|. -/
def gap (a b : Nat) : Nat := (a - b) + (b - a)

/-- The waypoint (position, duty) of the current leg. -/
def RunRec.waypoint (r : RunRec) : Nat × Nat := r.waypoints.getD (r.leg - 1) (0, 0)

/-- The current leg is the last. -/
def RunRec.lastLeg (r : RunRec) : Bool := decide (r.waypoints.length ≤ r.leg)

/-- R103, steps 1 to 3, for a move run. -/
def moveDuty (c : FigRec) (r : RunRec) (pos : Nat) : Nat :=
  if r.lastLeg ∧ gap r.waypoint.1 pos ≤ c.slow then c.creep
  else max c.creep (min 100 (r.waypoint.2 * r.scale / 100))

/-- R103, step 4. -/
def sagCap (rail : RailState) (d : Nat) : Nat :=
  match rail with
  | .normal => d
  | .sag => min d 60
  | .cut => 0

/-- The duty R103 gives a figure now. -/
def workDuty (s : State) (f : Nat) : Nat :=
  let q := figRun s f
  match figRec s f, q.run with
  | some c, some r =>
    if q.hold.isSome then 0
    else
      match q.state with
      | .moving =>
        match r.kind with
        | .move => sagCap s.chr.rail (moveDuty c r q.pos)
        | .park | .homing => sagCap s.chr.rail c.creep
      | .homing =>
        match r.phase with
        | .claim => 0
        | .seek | .toPark => sagCap s.chr.rail c.creep
      | .unhomed | .parked | .waitZone | .paused | .jammed | .failed => 0
  | _, _ => 0

/-- The limit sensor of a figure is active. -/
def limitActive (s : State) (f : Nat) : Bool :=
  match (figRec s f).bind (·.limit) with
  | some n => sensorActive s n
  | none => false

/-- The home sensor of a figure is active. -/
def homeActive (s : State) (f : Nat) : Bool :=
  match figRec s f with
  | some c => sensorActive s c.home
  | none => false

/-! ## Ends of moves (R116) -/

/-- R116: a show move ends and the end is reported to the Gate Unit. -/
def endMove (f : Nat) (s : State) : State :=
  if (figRun s f).showMove then gateCheck (modFigRun f (fun r => { r with showMove := false }) s) else s

/-- A run ends in JAMMED (R108, R109): the wait of R113 is owed from the next entry to IDLE. -/
def runJammed (code : FaultCode) (f : Nat) (s : State) : State :=
  endMove f (raiseFault code f (modFigRun f
    (fun r => { r with run := none, state := .jammed, jamWait := .owed }) (motorOff f s)))

/-- R112: a homing run fails. -/
def failHoming (f : Nat) (s : State) : State :=
  raiseFault .figureFailed f
    (modFigRun f (fun r => { r with run := none, state := .failed }) (motorOff f s))

/-- R108: an overtravel. -/
def overtravel (f : Nat) (s : State) : State :=
  match (figRun s f).state with
  | .moving => runJammed .overtravel f s
  | .homing => failHoming f s
  | .unhomed | .parked | .waitZone | .paused | .jammed | .failed => s

/-- The duty is worked again (R103); an OUTWARD drive that begins with the limit sensor active is an
overtravel at that moment (R108). -/
def applyDuty (f : Nat) (s : State) : State :=
  let d := workDuty s f
  let begins := (figRun s f).duty = 0 ∧ 0 < d ∧ (figRun s f).lastOut ∧ limitActive s f
  let s1 := setDuty f d s
  if begins then overtravel f s1 else s1

/-! ## Requests (R102, R111, R112, R115) -/

/-- A run asks for its zones; an empty set is granted at once. -/
def requestRun (atHead : Bool) (f : Nat) (zones : List Nat) (s : State) : State :=
  if zones = [] then s.modZon fun z => { z with granted := z.granted ++ [f] }
  else enterRequest atHead f zones s

/-- The zones of a figure's homing set, with no release index. -/
def homingSet (c : FigRec) : List (Nat × Nat) := c.homingZones.map fun z => (z, 0)

/-- R115: a park run begins. -/
def beginPark (f : Nat) (c : FigRec) (s : State) : State :=
  requestRun false f c.homingZones (modFigRun f (fun r =>
    { r with
      state := .waitZone
      run := some ⟨.park, [(c.park, c.creep)], 1, 100, homingSet c, false, .claim, .seek, .off, false⟩ }) s)

/-- A figure's position is within the arrival window of its park position. -/
def atPark (c : FigRec) (r : FigRun) : Bool := decide (gap c.park r.pos ≤ c.window)

/-- R115: the park check of a figure. -/
def parkCheck (f : Nat) (s : State) : State :=
  match figRec s f with
  | none => s
  | some c =>
    match (figRun s f).state with
    | .parked => if atPark c (figRun s f) then releaseAsk f (heldZones s f) s else beginPark f c s
    | .unhomed | .homing | .waitZone | .moving | .paused | .jammed | .failed => s

/-- R112, R113: a homing run begins. -/
def beginHoming (f : Nat) (s : State) : State :=
  match figRec s f with
  | none => s
  | some c =>
    requestRun false f c.homingZones (modFigRun f (fun r =>
      { r with
        state := .homing, hold := none, jamWait := .none
        run := some ⟨.homing, [(c.park, c.creep)], 1, 100, homingSet c, false, .claim, .seek, .off,
          decide (r.state = .jammed)⟩ })
      (setDuty f 0 s))

/-! ## Legs (R104 to R106) -/

/-- The run record of a figure changed. -/
def modRun (f : Nat) (g : RunRec → RunRec) (s : State) : State :=
  modFigRun f (fun r => { r with run := r.run.map g }) s

/-- A leg in a direction that begins with a reversal hold (R104). -/
def holdFor (f : Nat) (outward : Bool) (s : State) : State :=
  setDuty f 0 (modFigRun f (fun r => { r with hold := some (s.now + Config.holdUs) })
    (modRun f (fun r => { r with outward := outward }) s))

/-- R104, a leg in a direction: a reversal hold where it is not the last direction. -/
def headFor (f : Nat) (outward : Bool) (s : State) : State :=
  if (figRun s f).lastOut = outward then
    applyDuty f (modFigRun f (fun r => { r with hold := none })
      (modRun f (fun r => { r with outward := outward }) s))
  else holdFor f outward s

/-- R105: zones of the run set with a release index are released and leave the set. -/
def releaseIndex (f i : Nat) (r : RunRec) (s : State) : State :=
  releaseAsk f ((r.zones.filter fun z => z.2 == i).map (·.1))
    (modRun f (fun r => { r with zones := r.zones.filter fun z => z.2 != i }) s)

/-- R105: an intermediate waypoint is passed. -/
def passWaypoint (f : Nat) (r : RunRec) (s : State) : State :=
  modRun f (fun r => { r with leg := r.leg + 1 }) (releaseIndex f r.leg r s)

/-- R106, R112 step 3, R115: arrival. A move run that arrives in SETTLING is followed by the park check;
before, its end is reported. -/
def arrive (f : Nat) (r : RunRec) (s : State) : State :=
  let s1 := motorOff f s
  let s2 := match r.kind with
    | .move => releaseIndex f r.leg r s1
    | .park | .homing => releaseAsk f (heldZones s1 f) s1
  let s3 := modFigRun f (fun q => { q with run := none, state := .parked }) s2
  match r.kind with
  | .move => if s.she.engine = .settling then parkCheck f s3 else endMove f s3
  | .park | .homing => s3

/-- R104: the current leg begins; waypoints at the present position are passed at once. `n` bounds them. -/
def startLeg : Nat → Nat → State → State
  | 0, _, s => s
  | n + 1, f, s =>
    match (figRun s f).run with
    | none => s
    | some r =>
      if r.waypoint.1 = (figRun s f).pos then
        if r.lastLeg then arrive f r s else startLeg n f (passWaypoint f r s)
      else headFor f (decide ((figRun s f).pos < r.waypoint.1)) s

/-- Legs a run may have, and one. -/
abbrev legFuel : Nat := 9

/-! ## Homing phases (R112) -/

/-- R112, step 2: TO_PARK begins with the position 0: a leg OUTWARD with a reversal hold, whatever the
last direction; a park position of 0 is reached at once (R104; log entry 20). -/
def headToPark (f : Nat) (s : State) : State :=
  match (figRun s f).run with
  | none => s
  | some r => if r.waypoint.1 = 0 then arrive f r s else holdFor f true s

/-- R112, step 2: the home sensor is active during SEEK. -/
def homeFound (f : Nat) (s : State) : State :=
  headToPark f (modFigRun f (fun q =>
    { q with
      pos := 0, hold := none
      run := q.run.map fun r => { r with phase := .toPark, limit := .off } }) s)

/-- R112, step 1: SEEK begins or goes on. -/
def seek (f : Nat) (s : State) : State := if homeActive s f then homeFound f s else headFor f false s

/-- The homing limit timer as SEEK begins or goes on: with the whole limit or what was left, and held
while the rail is CUT (R110; log entry 19). -/
def limitAtGrant (s : State) (limitS : Nat) : LimitTimer → LimitTimer
  | .off => if s.chr.rail = .cut then .held (limitS * 1000000) else .runs (s.now + limitS * 1000000)
  | .held left => if s.chr.rail = .cut then .held left else .runs (s.now + left)
  | .runs d => .runs d

/-! ## Grants (R102, R111, R112, R115, R122) -/

/-- MOVING, or PAUSED under CUT. -/
def drivingState (s : State) : FigState := if s.chr.rail = .cut then .paused else .moving

/-- The Zone Unit grants the request of a figure. -/
def figGranted (s : State) (f : Nat) : State :=
  match (figRun s f).state, (figRun s f).run, figRec s f with
  | .waitZone, some r, some _ =>
    let s1 := match r.kind with
      | .move => releaseAsk f ((heldZones s f).filter fun z => !(r.zones.map (·.1)).contains z) s
      | .park | .homing => s
    startLeg legFuel f (modFigRun f (fun q => { q with state := drivingState s }) s1)
  | .homing, some r, some c =>
    if r.phase = .claim then
      match r.resume with
      | .toPark => startLeg legFuel f (modRun f (fun r => { r with phase := .toPark }) s)
      | .claim | .seek =>
        seek f (modRun f (fun r => { r with phase := .seek, limit := limitAtGrant s c.homingS r.limit }) s)
    else s
  | _, _, _ => s

/-- The grants of a trial are handed over, in order. -/
def handGrants (s : State) : State :=
  s.zon.granted.foldl figGranted (s.modZon fun z => { z with granted := [] })

/-- The trials owed are made and their grants handed over, until none is owed (log entry 13). -/
def settleZones : Nat → State → State
  | 0, s => s
  | n + 1, s =>
    if s.zon.trialDue ∨ s.zon.granted ≠ [] then
      settleZones n (handGrants (if s.zon.trialDue then tryList s else s))
    else s

/-- Rounds of trials in one step. -/
abbrev trialFuel : Nat := 16

/-- A command's meaning where zones may be tried before its step ends. -/
def zoneEvent (t : Nat) (f : State → State) (s : State) : Host.Outcome State Fault Refusal :=
  event t (fun s => settleZones trialFuel (f s)) s

/-! ## Moves (R100 to R102) -/

/-- R100: the waypoints of a move; none where the MOVE cannot be resolved. -/
def resolveMove (c : FigRec) (p : PathRec) (mirrored : Bool) : Option (List (Nat × Nat)) :=
  if p.waypoints = [] ∨ p.waypoints.any (fun w => decide (c.travelMax < w.1)) then none
  else some (p.waypoints.map fun w => (if mirrored then c.travelMax - w.1 else w.1, w.2))

/-- R102: a move run begins. -/
def beginMove (f scale : Nat) (waypoints zones : List (Nat × Nat)) (s : State) : State :=
  requestRun false f (zones.map (·.1)) (modFigRun f (fun r =>
    { r with
      state := .waitZone, showMove := true
      run := some ⟨.move, waypoints, 1, scale, zones, false, .claim, .seek, .off, false⟩ }) s)

/-- R100, R101: a MOVE is handed to the Figure Unit. A skipped one has ended and is reported (R116). -/
def takeMove (f path scale : Nat) (mirrored : Bool) (s : State) : State :=
  let p := s.fig.paths.getD path PathRec.empty
  match (figRec s f).bind fun c => resolveMove c p mirrored with
  | none => gateCheck (addMoveSkipped s)
  | some w =>
    match (figRun s f).state with
    | .parked => beginMove f scale w (if mirrored then p.mirrorZones else p.zones) s
    | .waitZone | .moving | .paused => gateCheck (raiseFault .moveBusy f s)
    | .jammed | .failed | .unhomed | .homing => gateCheck (addMoveSkipped s)

/-! ## Encoder (R107, R108) -/

/-- R107: an edge of the figure's encoder is counted now. -/
def edgeCounted (r : FigRun) : Bool := decide (0 < r.duty) || r.hold.isSome || r.coast.isSome

/-- R107: the position after a counted edge. -/
def countPos (travelMax : Nat) (r : FigRun) : Nat :=
  if r.lastOut then min travelMax (r.pos + 1) else r.pos - 1

/-- The position has reached or crossed the target in the leg's direction (R104). -/
def reached (r : RunRec) (pos : Nat) : Bool :=
  if r.outward then decide (r.waypoint.1 ≤ pos) else decide (pos ≤ r.waypoint.1)

/-- What a counted edge does to a drive toward a target (R104, R106): passes a waypoint, arrives, or
has the duty worked again. -/
def legProgress (f : Nat) (c : FigRec) (r : RunRec) (s : State) : State :=
  let pos := (figRun s f).pos
  if r.lastLeg then
    if gap r.waypoint.1 pos ≤ c.window then arrive f r s else applyDuty f s
  else if reached r pos then startLeg legFuel f (passWaypoint f r s)
  else applyDuty f s

/-- The drive of a figure after a counted edge; only a run that drives makes progress (log entry 21). -/
def afterEdge (f : Nat) (c : FigRec) (s : State) : State :=
  match (figRun s f).state, (figRun s f).run with
  | .moving, some r | .paused, some r => legProgress f c r s
  | .homing, some r =>
    match r.phase with
    | .claim => s
    | .seek => applyDuty f s
    | .toPark => legProgress f c r s
  | _, _ => s

/-- R107: an edge of a figure's encoder. -/
def encoderEdge (f : Nat) (s : State) : State :=
  match figRec s f with
  | none => s
  | some c =>
    let r := figRun s f
    if edgeCounted r then
      if r.lastOut ∧ 0 < r.duty ∧ c.travelMax ≤ r.pos then overtravel f s
      else
        afterEdge f c (modFigRun f (fun r =>
          { r with
            pos := countPos c.travelMax r
            jam := if 0 < r.duty then some (s.now + c.jamMs * Config.msUs) else r.jam }) s)
    else s

/-- R108: the limit sensor of a figure becomes active. -/
def limitBecomesActive (f : Nat) (s : State) : State :=
  if 0 < (figRun s f).duty ∧ (figRun s f).lastOut then overtravel f s else s

/-- R112: the home sensor of a figure becomes active; it is not read outside SEEK. -/
def homeBecomesActive (f : Nat) (s : State) : State :=
  match (figRun s f).state, (figRun s f).run with
  | .homing, some r => if r.phase = .seek then homeFound f s else s
  | _, _ => s

/-! ## Timers (R104, R107, R109, R112, R113) -/

/-- R109: the jam timer expires. -/
def jamExpires (f : Nat) (s : State) : State :=
  match (figRun s f).state with
  | .moving => runJammed .figureJam f s
  | .homing => failHoming f s
  | .unhomed | .parked | .waitZone | .paused | .jammed | .failed => s

/-- The direction of the leg is set and its duty applied (R104, R110). -/
def driveLeg (f : Nat) (s : State) : State :=
  applyDuty f (modFigRun f (fun q =>
    { q with hold := none, lastOut := (q.run.map (·.outward)).getD q.lastOut }) s)

/-- R112: the homing limit timer of a figure has run out. -/
def limitExpired (s : State) (f : Nat) : Bool :=
  match (figRun s f).run with
  | some r =>
    match r.limit with
    | .runs d => decide (d ≤ s.now)
    | .off | .held _ => false
  | none => false

/-- R113: the jam-homing wait of a figure has run out. -/
def jamWaitExpired (s : State) (f : Nat) : Bool :=
  match (figRun s f).jamWait with
  | .until d => decide (d ≤ s.now)
  | .none | .owed => false

/-- R113: the jam-homing wait expires. -/
def jamWaitEnds (f : Nat) (s : State) : State :=
  let s1 := modFigRun f (fun r => { r with jamWait := .none }) s
  if (figRun s f).state = .jammed ∧ maySend s then beginHoming f s1 else s1

/-! ## Rail (R110) -/

/-- The limit timer held (R110, R111). -/
def LimitTimer.hold (now : Nat) : LimitTimer → LimitTimer
  | .runs d => .held (d - now)
  | .off => .off
  | .held l => .held l

/-- The limit timer runs on (R110). -/
def LimitTimer.goOn (now : Nat) : LimitTimer → LimitTimer
  | .held l => .runs (now + l)
  | .off => .off
  | .runs d => .runs d

/-- R110: a figure as the rail enters CUT. -/
def figEntersCut (s : State) (f : Nat) : State :=
  match (figRun s f).state, (figRun s f).run with
  | .moving, some _ => modFigRun f (fun q => { q with state := .paused }) (motorOff f s)
  | .homing, some r =>
    if r.phase = .claim then s
    else modRun f (fun r => { r with limit := r.limit.hold s.now }) (motorOff f s)
  | _, _ => s

/-- R110: a figure as the rail leaves CUT. A hold begun under CUT runs on (log entry 19). -/
def figLeavesCut (s : State) (f : Nat) : State :=
  match (figRun s f).state, (figRun s f).run with
  | .paused, some _ =>
    let s1 := modFigRun f (fun q => { q with state := .moving }) s
    if (figRun s f).hold.isSome then s1 else driveLeg f s1
  | .homing, some r =>
    if r.phase = .claim then s
    else
      let s1 := modRun f (fun r => { r with limit := r.limit.goOn s.now }) s
      if (figRun s f).hold.isSome then s1 else driveLeg f s1
  | _, _ => s

/-- R110: a figure at a change between NORMAL and SAG. -/
def figSagChange (s : State) (f : Nat) : State :=
  match (figRun s f).state with
  | .moving => applyDuty f s
  | .unhomed | .homing | .parked | .waitZone | .paused | .jammed | .failed => s

/-! ## Lost zones, withdrawal, muting, end of programme -/

/-- R111: a zone held for a figure is lost. -/
def figLosesZone (s : State) (f : Nat) : State :=
  match (figRun s f).state, (figRun s f).run with
  | .moving, some r | .paused, some r =>
    requestRun true f (r.zones.map (·.1))
      (modFigRun f (fun q => { q with state := .waitZone }) (motorOff f s))
  | .homing, some r =>
    if r.phase = .claim then s
    else requestRun true f (r.zones.map (·.1))
      (modRun f (fun r => { r with phase := .claim, resume := r.phase, limit := r.limit.hold s.now })
        (motorOff f s))
  | _, _ => s

/-- R113: a figure at the station's withdrawal from a show, its motor at 0 already. -/
def figWithdraws (s : State) (f : Nat) : State :=
  match figRec s f with
  | none => s
  | some c =>
    match (figRun s f).state with
    | .waitZone | .moving | .paused | .parked =>
      let s1 := withdrawRequest f s
      if atPark c (figRun s f) then
        releaseAsk f (heldZones s1 f)
          (modFigRun f (fun q => { q with run := none, hold := none, state := .parked }) s1)
      else beginHoming f s1
    | .unhomed | .homing | .jammed | .failed => s

/-- The motors of the move and park runs at 0 (R34), every show-move flag clear (R116). -/
def stopMoves (r : FigRun) : FigRun := { r with showMove := false }

/-- R34: the motor of a figure whose run ends at a withdrawal. -/
def cutMotor (s : State) (f : Nat) : State :=
  match (figRun s f).state with
  | .moving | .paused => setDuty f 0 s
  | .unhomed | .homing | .parked | .waitZone | .jammed | .failed => s

/-- Every show-move flag cleared without a report (R116). -/
def clearMoves (s : State) : State := s.modFig fun g => { g with run := g.run.map stopMoves }

/-- R34, R113: the Figure Unit's part of a withdrawal by a station that is not muted. -/
def figsWithdraw (s : State) : State :=
  (figNumbers s).foldl figWithdraws ((figNumbers s).foldl cutMotor (clearMoves s))

/-- R114: a figure as the station is muted. -/
def muteFigure (now : Nat) (r : FigRun) : FigRun :=
  { (r.off now) with
    run := none, showMove := false, jamWait := .none
    state := match r.state with
      | .waitZone | .moving | .paused | .homing => .unhomed
      | .unhomed => .unhomed
      | .parked => .parked
      | .jammed => .jammed
      | .failed => .failed }

/-- R114: the station is muted. -/
def muteFigures (s : State) : State :=
  (figNumbers s).foldl (fun s f => modFigRun f (muteFigure s.now) s) s

/-- R115: the park checks at the end of the programme. -/
def parkChecks (s : State) : State := (figNumbers s).foldl (fun s f => parkCheck f s) (clearMoves s)

end Sys2Proof.Machine
end

