-- ==== Sys2Proof/Machine/Bell.lean ====
section
/-! DEFINITION. The Bell Unit (chapter 5): strikes in two stages, the strike list, pulses, heat,
dampers, hour strikes. -/

namespace Sys2Proof.Machine

/-! ## First stage (R77 to R79) -/

/-- R78: the lead of a velocity. -/
def strikeLead (c : BellRec) (vel : Nat) : Nat := c.leadMin + c.leadSpan * (127 - vel) / 126

/-- R77: the effective velocity of a cue velocity now. -/
def effVelocity (s : State) (v : Nat) : Nat :=
  let agreed := (s.she.showRec.map (·.level)).getD .quiet
  min (min v (ceiling s (restrictive agreed s.sck.level))) (railCeiling s)

/-- R79: the order of entries: fire time, bell, insertion number. -/
def strikeBefore (a b : Strike) : Bool :=
  decide (a.fire < b.fire ∨ (a.fire = b.fire ∧ (a.bell < b.bell ∨ (a.bell = b.bell ∧ a.ins < b.ins))))

/-- R79: an entry put in its place. -/
def insertStrike (e : Strike) : List Strike → List Strike
  | [] => [e]
  | x :: l => if strikeBefore e x then e :: x :: l else x :: insertStrike e l

/-- The late tolerance in µs. -/
def toleranceUs (s : State) : Nat := s.bel.tolerance * Config.msUs

/-- The late deadline of an entry has passed (R78, R82). -/
def deadlinePassed (s : State) (fire : Int) : Bool := decide (fire + toleranceUs s < s.now)

/-! ## Dampers (R88 to R90) -/

/-- The bell has a damper channel. -/
def hasDamper (c : BellRec) : Bool := c.damper.isSome

/-- R90: every damper goes DOWN. -/
def dropDampers (s : State) : State :=
  s.modBel fun b => { b with run := b.run.map fun r => { r with damper := .down } }

/-- R89: a DAMP cue. -/
def takeDamp (b action : Nat) (s : State) : State :=
  match bellRec s b with
  | none => s
  | some c =>
    if c.enabled ∧ hasDamper c then
      if action = 1 then modBellRun b (fun r => { r with damper := .down }) s
      else if s.chr.rail = .cut then s
      else modBellRun b (fun r =>
        { r with
          damper := if isPulsing r.hammer then .upHeld else .up (s.now + c.ring * Config.msUs) }) s
    else s

/-! ## Second stage (R80 to R85) -/

/-- R83: the width a curve gives a velocity. -/
def curveWidth : List (Nat × Nat) → Nat → Nat
  | [], _ => 0
  | [p], _ => p.2
  | p :: q :: l, v =>
    if v ≤ p.1 then p.2
    else if v ≤ q.1 then p.2 + (q.2 - p.2) * (v - p.1) / (q.1 - p.1)
    else curveWidth (q :: l) v

/-- R83: the velocity used for the width. -/
def widthVelocity (s : State) (vel : Nat) : Nat :=
  match s.chr.rail with
  | .normal => vel
  | .sag | .cut => min vel 64

/-- R84: the width that the heat account allows, and whether it was trimmed; none for a skip. -/
def heatCheck (c : BellRec) (h w : Nat) : Option (Nat × Bool) :=
  if h + w ≤ c.heatLimit then some (w, false)
  else if c.minWidth ≤ c.heatLimit - h then some (c.heatLimit - h, true)
  else none

/-- The entry removed from the strike list. -/
def removeStrike (e : Strike) (s : State) : State :=
  s.modBel fun b => { b with strikes := b.strikes.filter fun x => x != e }

/-- R85: a pulse starts. -/
def startPulse (c : BellRec) (e : Strike) (w : Nat) (s : State) : State :=
  modBellRun e.bell (fun r =>
    { hammer := .pulsing (s.now + w), heat := r.heat + w
      damper := if hasDamper c then .upHeld else r.damper }) (removeStrike e s)

/-- R83 to R85: the entry the arbiter chose. -/
def fireStrike (e : Strike) (s : State) : State :=
  match bellRec s e.bell with
  | none => removeStrike e s
  | some c =>
    match heatCheck c (bellRun s e.bell).heat (curveWidth c.curve (widthVelocity s e.vel)) with
    | none => raiseFault .thermalSkip e.bell (removeStrike e s)
    | some (w, trimmed) =>
      let s1 := startPulse c e w s
      if trimmed then raiseFault .thermalTrim e.bell s1 else s1

/-- R80: an entry is due. -/
def strikeDue (s : State) (e : Strike) : Bool := decide (e.fire ≤ s.now)

/-- R80: an entry is eligible for a pulse slot. -/
def eligible (s : State) (e : Strike) : Bool :=
  strikeDue s e && !deadlinePassed s e.fire && (bellRun s e.bell).hammer == .idle

/-- R81: the arbiter; `n` bounds the entries it chooses. No pulse starts under CUT (R80). -/
def arbitrate : Nat → State → State
  | 0, s => s
  | n + 1, s =>
    if s.chr.rail ≠ .cut ∧ slotsHeld s < s.bel.k then
      match s.bel.strikes.find? (eligible s) with
      | some e => arbitrate n (fireStrike e s)
      | none => s
    else s

/-- R81: a run of the arbiter, over a list of at most 16. -/
def runArbiter (s : State) : State := arbitrate 16 s

/-- R77 to R79: a STRIKE of a bell and a cue velocity, with its onset. -/
def takeStrike (b v : Nat) (onset : Int) (s : State) : State :=
  match bellRec s b with
  | none => addSuppressed 1 s
  | some c =>
    let vel := effVelocity s v
    if c.enabled = false ∨ vel = 0 then addSuppressed 1 s
    else
      let lead := strikeLead c vel
      let fire := onset - lead
      if deadlinePassed s fire then raiseFault .strikeLate b s
      else if 16 ≤ s.bel.strikes.length then raiseFault .strikeListFull b s
      else
        let s1 := s.modBel fun bel =>
          { bel with
            strikes := insertStrike ⟨b, vel, lead, onset, fire, bel.nextIns⟩ bel.strikes
            nextIns := bel.nextIns + 1 }
        if fire ≤ s.now then runArbiter s1 else s1

/-- R80: the due entries are removed and counted, while the rail is CUT. -/
def suppressDue (s : State) : State :=
  addSuppressed (s.bel.strikes.filter (strikeDue s)).length
    (s.modBel fun b => { b with strikes := b.strikes.filter fun e => !strikeDue s e })

/-- R80: an entry reaches its fire time. -/
def strikesDue (s : State) : State := if s.chr.rail = .cut then suppressDue s else runArbiter s

/-- R82: an entry's late deadline has come. -/
def deadlineReached (s : State) (e : Strike) : Bool := decide (e.fire + toleranceUs s ≤ s.now)

/-- R82: the entries whose late deadline has come are removed, in list order. -/
def dropLate (s : State) : State :=
  (s.bel.strikes.filter (deadlineReached s)).foldl
    (fun s e => raiseFault .strikeLate e.bell (removeStrike e s)) s

/-! ## Pulse end, recovery, heat (R76, R86) -/

/-- R76, R88: the pulse of a bell ends now; its damper, still up, rings from now. A damper dropped since the pulse
began stays DOWN, also where the end of the programme dropped it (R90), of which R88 and R90 leave this open
(DESIGN CHOICE, log entry 48). -/
def endPulse (b : Nat) (s : State) : State :=
  match bellRec s b with
  | none => s
  | some c =>
    modBellRun b (fun r =>
      { r with
        hammer := .recovering (s.now + c.recovery * Config.msUs)
        damper := if r.damper = .upHeld then .up (s.now + c.ring * Config.msUs) else r.damper }) s

/-- R86: the heat account of a bell after one period. -/
def coolBell (s : State) (b : Nat) : State :=
  match bellRec s b with
  | none => s
  | some c => modBellRun b (fun r => { r with heat := r.heat - c.cool }) s

/-! ## The rail enters CUT (R80, R87, R90) -/

/-- R87: one pulse cut short. -/
def cutShort (s : State) (b : Nat) : State :=
  if isPulsing (bellRun s b).hammer then raiseFault .cutShort b (endPulse b s) else s

/-- R87: the Bell Unit as the rail enters CUT. -/
def bellsEnterCut (s : State) : State :=
  dropDampers (suppressDue ((bellNumbers s).foldl cutShort s))

/-! ## Hour strikes (R91, R92, R70) -/

/-- R91, R92: a record with strokes remaining asks for its wake-up. Refused (the list is full) or beyond
its part, it is closed and its strokes are counted. -/
def askWakeUp (r : HourRec) (s : State) : State :=
  if (partAt (partsOf s) r.part).length ≤ r.next ∨ 16 ≤ s.csq.wakeups.length then
    addSuppressed r.remaining s
  else
    (s.modBel fun b => { b with hours := b.hours ++ [r] }).modCsq
      fun c => { c with wakeups := c.wakeups ++ [⟨r.id, r.part, r.next⟩] }

/-- R91: a HOURSTRIKE of part tick `t`. -/
def takeHourStrike (b v interval part t : Nat) (onset : Int) (s : State) : State :=
  let n := (s.she.showRec.map (·.hour)).getD 1
  let s1 := takeStrike b v onset s
  if n ≤ 1 then s1
  else
    askWakeUp ⟨s1.bel.nextHour, b, v, interval, part, t + interval, n - 1⟩
      (s1.modBel fun bel => { bel with nextHour := bel.nextHour + 1 })

/-- R92: the wake-up of a record is due, with the onset of its stroke. -/
def takeWakeUp (id : Nat) (onset : Int) (s : State) : State :=
  match s.bel.hours.find? fun r => r.id == id with
  | none => s
  | some r =>
    let s1 := takeStrike r.bell r.vel onset
      (s.modBel fun b => { b with hours := b.hours.filter fun x => x.id != id })
    if r.remaining ≤ 1 then s1
    else askWakeUp { r with next := r.next + r.interval, remaining := r.remaining - 1 } s1

/-! ## Withdrawal and end of programme (R94, R95) -/

/-- R94: the station withdraws. -/
def bellsWithdraw (s : State) : State :=
  dropDampers (s.modBel fun b => { b with strikes := [], hours := [] })

/-- R95: the programme ends. -/
def bellsEnd (s : State) : State := dropDampers (s.modBel fun b => { b with hours := [] })

end Sys2Proof.Machine
end

