-- ==== Sys2Proof/Machine/Channel.lean ====
section
/-! DEFINITION. The Channel and Rail Unit (chapter 8): lamps, strobe, sensors, the supply rail. -/

namespace Sys2Proof.Machine

/-! ## Lamps (R137, R138) -/

/-- Lamp channel `ch` changed. -/
def modLamp (ch : Nat) (g : Lamp → Lamp) (s : State) : State :=
  s.modChr fun c => { c with lamps := c.lamps.set ch (g (c.lamps.getD ch ⟨0, none⟩)) }

/-- R137: a LAMP cue on one channel: a step, or a new fade from the present level. -/
def Lamp.cue (now target dur : Nat) (l : Lamp) : Lamp :=
  if dur = 0 then ⟨target, none⟩
  else ⟨fadeLevel l now, some ⟨fadeLevel l now, target, now, dur⟩⟩

/-- R137: a LAMP cue. -/
def takeLamp (ch target dur : Nat) (s : State) : State := modLamp ch (Lamp.cue s.now target dur) s

/-- R137: a lamp as its level is worked, at the start of a lamp period or as the hold lifts; a fade that has run its
time is discarded. The level becomes the target and the fade record goes when the level is next worked at or after
the fade's end, not at that moment itself (DESIGN CHOICE, log entry 47). -/
def Lamp.period (now : Nat) (l : Lamp) : Lamp :=
  ⟨fadeLevel l now, l.fade.filter fun f => decide (now < f.at_ + f.dur)⟩

/-- R137: every lamp's level worked afresh at the present moment. -/
def workLamps (s : State) : State := s.modChr fun c => { c with lamps := c.lamps.map (Lamp.period s.now) }

/-- R138: the lamp hold judged as the state goes from `s0` to `s`: where it lifts, every output shows the present
level of its channel at once. -/
def judgeHold (s0 s : State) : State := if lampHold s0 ∧ lampHold s = false then workLamps s else s

/-- R138: every level 0 and every fade discarded, at a withdrawal. -/
def lampsOut (s : State) : State :=
  s.modChr fun c => { c with lamps := c.lamps.map fun _ => ⟨0, none⟩ }

/-! ## Strobe (R72, R139) -/

/-- The mode of the STROBE channel; none where no channel is one. -/
def strobeMode (s : State) : Option StrobeMode :=
  (s.chr.channels.find? fun c => c.kind == .strobe).map (·.mode)

/-- R72: the pulse width in µs of a mark; none where it gives no pulse. -/
def markWidth (m : StrobeMode) (bar : Bool) : Option Nat :=
  match m, bar with
  | .bar, true => some 20000
  | .bar, false => none
  | .beat, true => some 30000
  | .beat, false => some 10000

/-- R139: a bar or beat mark is handed to the strobe. -/
def takeMark (bar : Bool) (s : State) : State :=
  match (strobeMode s).bind fun m => markWidth m bar with
  | some w => s.modChr fun c => { c with strobeEnd := some (s.now + w) }
  | none => s

/-- R72, R139: the strobe goes low and its pulse ends. -/
def strobeLow (s : State) : State := s.modChr fun c => { c with strobeEnd := none }

/-! ## Sensors (R140, R141) -/

/-- Sensor `n` changed. -/
def modSensor (n : Nat) (g : SensRun → SensRun) (s : State) : State :=
  s.modChr fun c => { c with sensors := c.sensors.set n (g (c.sensors.getD n ⟨false, none, none⟩)) }

/-- The filter period of a sensor kind in µs; none for OFF, which is not read. -/
def filterUs : SensRec → Option Nat
  | .off => none
  | .home _ | .limit _ => some Config.sensorFilterUs
  | .encoder _ => some Config.encoderFilterUs

/-- R140, R141: a pin changes its level, and the filter's period starts again. The level is followed
while the pin's sensor is not read. -/
def pinChange (n : Nat) (high : Bool) (s : State) : State :=
  modSensor n (fun r =>
    if r.pin = high then r
    else { r with pin := high, timer := (filterUs (sensRec s n)).map fun d => s.now + d }) s

/-- A filter period has run out: the filtered level is the pin's. -/
def SensRun.formed (r : SensRun) : SensRun := { r with filtered := some r.pin, timer := none }

/-- The configured figures with a property of their records. -/
def figsWith (s : State) (p : FigRec → Bool) : List Nat :=
  (figNumbers s).filter fun f => (figRec s f).any p

/-- R140: the 1 ms filter of a HOME or LIMIT sensor runs out; a sensor that becomes active is handed to
its figure. -/
def filterExpires (n : Nat) (s : State) : State :=
  let s1 := modSensor n SensRun.formed s
  if sensorActive s n = false ∧ sensorActive s1 n then
    match sensRec s n with
    | .home _ => (figsWith s fun c => c.home == n).foldl (fun s f => homeBecomesActive f s) s1
    | .limit _ => (figsWith s fun c => c.limit == some n).foldl (fun s f => limitBecomesActive f s) s1
    | .off | .encoder _ => s1
  else s1

/-- R141: an edge selection names a rising, or a falling edge. -/
def edgeSelected (e : EdgeSel) (rising : Bool) : Bool :=
  match e with
  | .rising => rising
  | .falling => !rising
  | .both => true

/-- R141: the 20 µs filter of an ENCODER sensor runs out; a selected edge is handed to its figure. The
forming of the level is no edge. -/
def encoderExpires (n : Nat) (s : State) : State :=
  let r := sensRun s n
  let s1 := modSensor n SensRun.formed s
  match sensRec s n with
  | .encoder e =>
    if r.filtered = some (!r.pin) ∧ edgeSelected e r.pin then
      (figsWith s fun c => c.encoder == n).foldl (fun s f => encoderEdge f s) s1
    else s1
  | .off | .home _ | .limit _ => s1

/-! ## Rail (R142 to R144) -/

/-- The warn threshold of a code, in 0.1 V (R142). -/
def warnAt (code : Nat) : Nat := 220 - 10 * code

/-- The cut threshold of a code, in 0.1 V (R142). -/
def cutAt (code : Nat) : Nat := 180 - 10 * code

/-- A count after a measurement (R143). -/
def railCount (meets : Bool) (n : Nat) : Nat := if meets then n + 1 else 0

/-- R143: the rail state and the two counts after a measurement of `v`. -/
def railStep (warn cut v : Nat) (r : RailState) (down alt : Nat) : RailState × Nat × Nat :=
  match r with
  | .normal =>
    let d := railCount (decide (v < cut)) down
    let a := railCount (decide (v < warn)) alt
    if 10 ≤ d then (.cut, 0, 0) else if 20 ≤ a then (.sag, 0, 0) else (.normal, d, a)
  | .sag =>
    let d := railCount (decide (v < cut)) down
    let a := railCount (decide (warn + 5 < v)) alt
    if 10 ≤ d then (.cut, 0, 0) else if 2000 ≤ a then (.normal, 0, 0) else (.sag, d, a)
  | .cut =>
    let d := railCount (decide (cut + 10 < v)) down
    if 1000 ≤ d then (.sag, 0, 0) else (.cut, d, 0)

/-- R144: a change of rail state is handed on. -/
def railChanged (old new : RailState) (v : Nat) (s : State) : State :=
  match old, new with
  | .normal, .cut | .sag, .cut =>
    (figNumbers s).foldl figEntersCut (bellsEnterCut (raiseFault .railCut (v / 2) s))
  | .cut, .sag => (figNumbers s).foldl figLeavesCut (raiseFault .railSag (v / 2) s)
  | .normal, .sag => (figNumbers s).foldl figSagChange (raiseFault .railSag (v / 2) s)
  | .sag, .normal => (figNumbers s).foldl figSagChange s
  | .normal, .normal | .sag, .sag | .cut, .cut | .cut, .normal => s

/-- R142, R143: a measurement of the rail, 30.0 V at most. -/
def measureRail (decivolts : Nat) (s : State) : State :=
  let v := min decivolts 300
  let c := s.chr
  let r := railStep (warnAt c.warn) (cutAt c.cut) v c.rail c.cntDown c.cntAlt
  railChanged c.rail r.1 v
    { s with chr := { c with rail := r.1, cntDown := r.2.1, cntAlt := r.2.2, lastMeas := v } }

end Sys2Proof.Machine
end

