-- ==== Sys2Proof/Machine/Cue.lean ====
section
/-! DEFINITION. The Cue Sequencer (chapter 4): the port queue, arming, slots, the two pointers, dispatch,
gates on the beat clock, parts, marks and wake-ups. -/

namespace Sys2Proof.Machine

/-- The programme of the show record. -/
def progNo (s : State) : Nat := (s.she.showRec.map (·.prog)).getD 0

/-- R54: a directory with the entry of one programme marked bad. -/
def markEntry (p : Nat) (d : List DirEntry) : List DirEntry :=
  let e := d.getD p DirEntry.absent
  d.set p { e with bad := true }

/-- R54: the programme in use is marked bad. -/
def markBad (s : State) : State :=
  raiseFault .cueBlockBad (progNo s)
    (s.modCsq fun c => { c with directory := markEntry (progNo s) c.directory })

/-! ## Port queue (R59) -/

/-- The bytes of a read. -/
def readLen : ReadFor → Nat
  | .header => 204
  | .slotA _ | .slotB _ => 258

/-- A read past the top of the address space, which is not performed. -/
def readPast (r : PortRead) : Bool := decide (Config.memTop < r.addr + readLen r.use)

/-- How long a read of `n` bytes holds the port, in µs. -/
def portTime (n : Nat) : Nat := (4 + n) * 2

/-- A read queued; it begins at once on a free port. -/
def queueRead (use : ReadFor) (addr : Nat) (s : State) : State :=
  s.modCsq fun c => { c with port := c.port ++ [⟨use, addr, 1, s.now⟩] }

/-- The head read is over; the next begins. -/
def popRead (s : State) : State :=
  s.modCsq fun c =>
    { c with port := match c.port.tail with
        | [] => []
        | r :: l => { r with started := s.now } :: l }

/-- The head read is performed a second time. -/
def retryRead (s : State) : State :=
  s.modCsq fun c =>
    { c with port := match c.port with
        | [] => []
        | r :: l => { r with attempt := 2, started := s.now } :: l }

/-- The head read may end now: its time has passed, or it is not performed (log entry 41). -/
def readOver (s : State) (r : PortRead) : Bool :=
  readPast r || decide (r.started + portTime (readLen r.use) ≤ s.now)

/-- How a read is judged (R59). -/
inductive ReadResult where
  | good | badSum | silent
  deriving DecidableEq, Repr

/-- R55, R62: the sum of a read. -/
def sumGood (use : ReadFor) (d : List Byte) : Bool :=
  match use with
  | .header => areaSumGood d
  | .slotA _ | .slotB _ => byteSum (d.take 256) % 65536 == le16 d 256

/-- R59: a read judged. -/
def judgeRead (r : PortRead) (data : List Byte) : ReadResult :=
  let d := readBytes (readLen r.use) data
  if readPast r then .badSum
  else if noAnswer d then .silent
  else if sumGood r.use d then .good
  else .badSum

/-! ## Header and cue records (R55, R56, R179; Tables 15 to 17) -/

/-- A cue range at `i`. -/
def parseRange (d : List Byte) (i : Nat) : CueRange := ⟨le24 d i, le16 d (i + 3)⟩

/-- The part record at `i`. -/
def parsePart (d : List Byte) (i : Nat) : Part :=
  { tempo := byteAt d i, beats := byteAt d (i + 1), mirror := byteAt d (i + 2) != 0
    loops := byteAt d (i + 3), introLen := le16 d (i + 4), bodyLen := le16 d (i + 6)
    codaLen := le16 d (i + 8), intro := parseRange d (i + 10), body := parseRange d (i + 15)
    coda := parseRange d (i + 20) }

/-- R55: a cue range lies in the library. -/
def rangeValid (libSize : Nat) (r : CueRange) : Bool := r.count == 0 || decide (r.first + r.count ≤ libSize)

/-- R55: the field check of a part. -/
def partValid (libSize : Nat) (p : Part) : Bool :=
  decide (30 ≤ p.tempo ∧ p.tempo ≤ 240 ∧ 2 ≤ p.beats ∧ p.beats ≤ 7 ∧ p.introLen ≤ 24000
    ∧ p.bodyLen ≤ 24000 ∧ p.codaLen ≤ 24000)
    && rangeValid libSize p.intro && rangeValid libSize p.body && rangeValid libSize p.coda

/-- R55: the parts of a header; none where its field check fails. -/
def parseHeader (libSize : Nat) (d : List Byte) : Option (List Part) :=
  let n := le16 d 0
  let ps := (List.range n).map fun i => parsePart d (2 + 25 * i)
  if 1 ≤ n ∧ n ≤ 8 then (if ps.all (partValid libSize) then some ps else none) else none

/-- R56: the part of the built-in programme. -/
def builtinParts (s : State) : List Part :=
  match s.bel.hourBell with
  | some _ => [⟨60, 4, false, 0, 600, 0, 0, ⟨0, 1⟩, ⟨0, 0⟩, ⟨0, 0⟩⟩]
  | none => [⟨60, 4, false, 0, 0, 0, 0, ⟨0, 0⟩, ⟨0, 0⟩, ⟨0, 0⟩⟩]

/-- The cue record at `i` (Table 17). -/
def parseCue (d : List Byte) (i : Nat) : Cue :=
  ⟨byteAt d i, le16 d (i + 1), byteAt d (i + 3), byteAt d (i + 4), byteAt d (i + 5), byteAt d (i + 6)⟩

/-- The 32 records of a block. -/
def parseBlock (d : List Byte) : List Cue := (List.range 32).map fun i => parseCue d (8 * i)

/-! ## Block addresses and fills (R60) -/

/-- The address of a block (R60). -/
def blockAddr (s : State) (b : Nat) : Nat := ((s.iml.header.map (·.libBase)).getD 0) + 258 * b

/-- Slot A takes an item, FILLING. -/
def fillA (item : Nat) (p : Pos) (s : State) : State :=
  let b := blockOf (partsOf s) p
  queueRead (.slotA item) (blockAddr s b) (s.modCsq fun c => { c with slotA := ⟨.filling, item, p, b, []⟩ })

/-- Slot B takes an item, FILLING. -/
def fillB (item : Nat) (p : Pos) (s : State) : State :=
  let b := blockOf (partsOf s) p
  queueRead (.slotB item) (blockAddr s b) (s.modCsq fun c => { c with slotB := ⟨.filling, item, p, b, []⟩ })

/-- What the CSQ holds when no programme is in use (R55, R65). -/
def Csq.idle (c : Csq) : Csq :=
  { c with
    parts := none, builtin := false, slotA := CueSlot.vacant, slotB := CueSlot.vacant
    play := Cursor.nowhere, lead := Cursor.nowhere, running := false, gatesDone := []
    gateAfter := none, gateTick := 0, nextMark := 0, wakeups := [], port := [], underruns := [] }

/-! ## Slots left and taken (R61) -/

/-- The item that the trailing pointer lies in; items before it are left. -/
def trailingItem (s : State) : Nat := min s.csq.play.item s.csq.lead.item

/-- A slot is left. -/
def slotLeft (s : State) (sl : CueSlot) : Bool :=
  sl.state != .empty && decide (sl.item < trailingItem s)

/-- What a left slot takes: the item two on, kept where it is the block it holds READY. -/
def takenSlot (ps : List Part) (sl : CueSlot) : CueSlot :=
  match (nextItem ps sl.pos).bind (nextItem ps) with
  | none => CueSlot.vacant
  | some q =>
    if blockOf ps q = sl.block ∧ sl.state = .ready then { sl with item := sl.item + 2, pos := q }
    else ⟨.filling, sl.item + 2, q, blockOf ps q, []⟩

/-- Slot A is left. -/
def leaveA (s : State) : State :=
  let sl := takenSlot (partsOf s) s.csq.slotA
  let s1 := s.modCsq fun c => { c with slotA := sl }
  if sl.state = .filling then queueRead (.slotA sl.item) (blockAddr s sl.block) s1 else s1

/-- Slot B is left. -/
def leaveB (s : State) : State :=
  let sl := takenSlot (partsOf s) s.csq.slotB
  let s1 := s.modCsq fun c => { c with slotB := sl }
  if sl.state = .filling then queueRead (.slotB sl.item) (blockAddr s sl.block) s1 else s1

/-- The slots left are taken, the earlier item first; `n` bounds them. -/
def leaveSlots : Nat → State → State
  | 0, s => s
  | n + 1, s =>
    let a := slotLeft s s.csq.slotA
    let b := slotLeft s s.csq.slotB
    if a ∧ (b = false ∨ s.csq.slotA.item < s.csq.slotB.item) then leaveSlots n (leaveA s)
    else if b then leaveSlots n (leaveB s)
    else s

/-! ## Underruns and skips (R58, R63) -/

/-- R63: CUE_UNDERRUN, once for the visit of a block (log entry 26). -/
def recordUnderrun (item : Nat) (s : State) : State :=
  if item ∈ s.csq.underruns then s
  else raiseFault .cueUnderrun (progNo s) (s.modCsq fun c => { c with underruns := item :: c.underruns })

/-- R63: a pointer takes a cue that fell due while it waited, for that cue's block or for a later one
into which the cue's run reaches (R69). A cue of an item after the awaited one records nothing. -/
def underrunAt (c : Cursor) (s : State) : State :=
  match c.waiting with
  | some item => if c.item ≤ item then recordUnderrun item s else s
  | none => s

/-- R58: a cue skipped by its checks. -/
def skipInvalid (s : State) : State := raiseFault .cueOrder (progNo s) s

/-- The play pointer moved. -/
def setPlay (c : Cursor) (s : State) : State := s.modCsq fun q => { q with play := c }

/-- The lead pointer moved. -/
def setLead (c : Cursor) (s : State) : State := s.modCsq fun q => { q with lead := c }

/-- The show time of part tick `t` in the segment in force. -/
def tauNow (s : State) (t : Nat) : Int := tauOf s.csq.seg t

/-! ## The play pointer (R62, R63, R67, R68) -/

/-- What the play pointer does at once at its position: it passes a BAD block, skips a cue that fails
the checks, steps over a strike or a GATE cue already taken up, or skips what it has waited past. None
where it stands. Once it has waited, it skips every cue that it reaches late, those of READY items after
the awaited one included; for these no CUE_UNDERRUN is recorded (DESIGN CHOICE, log entry 44). -/
def playMove (s : State) : Option State :=
  let ps := partsOf s
  let c := s.csq.play
  match cueView s c with
  | .ended | .unread => none
  | .badBlock => some (setPlay (c.skipItem ps) s)
  | .cue p q =>
    let t := cueTick ps p q
    if cueValid s ps p c.prev q = false then
      some (setPlay (c.step ps c.prev) (if isStrikeKind q then s else skipInvalid s))
    else if isStrikeKind q ∨ (q.kind = 7 ∧ p ∈ s.csq.gatesDone) then
      some (setPlay (c.step ps (some q.tick)) s)
    else if c.waiting.isSome ∧ p.part = s.csq.seg.part ∧ tauNow s t < showTime s then
      some (setPlay (c.step ps (some q.tick)) (underrunAt c s))
    else none

/-- R68: a cue of the play pointer handed to its user. -/
def playCue (p : Pos) (q : Cue) (t : Nat) (s : State) : State :=
  match q.kind with
  | 2 => takeDamp q.a q.b s
  | 4 => takeMove q.a q.b q.c ((q.d != 0) != (partAt (partsOf s) p.part).mirror) s
  | 5 => takeLamp q.a q.b ((q.c + 256 * q.d) * 2500000 / s.csq.seg.tempo) s
  | 6 => s.modCsq fun c => { c with seg := ⟨p.part, tauOf c.seg t, t, q.a⟩ }
  | _ => s

/-- R41, R67: the GATE cue that stops the clock, at the cursor that stands at it. -/
def stopAtGate (c : Cursor) (t : Nat) (s : State) : State :=
  let after := c.step (partsOf s) c.prev
  let s1 := strobeLow (s.modCsq fun q =>
    { q with
      running := false, tau := tauNow s t, gateTick := t
      gateAfter := some (after.pos, after.item), gatesDone := q.gatesDone ++ c.pos.toList })
  gateCheck (modGate (fun g => { g with phase := .standing }) (setEngine .gateWait s1))

/-- R41: a GATE cue dispatched to the Gate Unit. -/
def takeGateCue (c : Cursor) (n t : Nat) (s : State) : State :=
  if n ≠ 0 ∧ gateNumber s = some n ∧ (s.gtu.gate.map (·.phase)) = some .ahead then stopAtGate c t s
  else
    raiseFault .cueOrder n (s.modCsq fun q => { q with gatesDone := q.gatesDone ++ c.pos.toList })

/-- R67: the first GATE cue of the play pointer's run that is not taken up yet. -/
def pendingGate (s : State) (p : Pos) (t : Nat) : Option (Cursor × Nat) :=
  (gatesOfRun s p.part t (lookFuel s) s.csq.play).find? fun x =>
    match x.1.pos with
    | some g => !s.csq.gatesDone.contains g
    | none => false

/-- The play pointer's cue, valid and due now: its position, record and part tick. -/
def dueCue (s : State) : Option (Pos × Cue × Nat) :=
  match cueView s s.csq.play with
  | .ended | .unread | .badBlock => none
  | .cue p q =>
    let t := cueTick (partsOf s) p q
    if s.csq.running ∧ cueValid s (partsOf s) p s.csq.play.prev q ∧ isStrikeKind q = false
        ∧ p.part = s.csq.seg.part ∧ tauNow s t ≤ showTime s then some (p, q, t) else none

/-- R67, R68: the cue due at the play pointer: a GATE cue of its run first, or the cue itself. -/
def dispatchPlay (x : Pos × Cue × Nat) (s : State) : State :=
  match pendingGate s x.1 x.2.2 with
  | some g => takeGateCue g.1 g.2 x.2.2 s
  | none => playCue x.1 x.2.1 x.2.2 (setPlay (s.csq.play.step (partsOf s) (some x.2.1.tick)) s)

/-! ## The lead pointer (R69) -/

/-- A strike handed to the Bell Unit, for show time `tau` of its tick. -/
def handStrike (p : Pos) (q : Cue) (tau : Int) (s : State) : State :=
  if q.kind = 3 then
    takeHourStrike q.a q.b q.c p.part (cueTick (partsOf s) p q) (realOf s tau) s
  else takeStrike q.a q.b (realOf s tau) s

/-- The lead pointer past a strike that it dispatches. -/
def dispatchLead (p : Pos) (q : Cue) (tau : Int) (s : State) : State :=
  handStrike p q tau (setLead (s.csq.lead.step (partsOf s) (some q.tick)) s)

/-- What the lead pointer does at once: it passes a BAD block, skips a cue that fails the checks, reads
past other kinds and, while the beat clock runs, skips a strike whose onset passed while it waited and dispatches one
whose dispatch moment has passed. None where it stands. A passed strike is skipped once its awaited block has come, also
where its run holds a GATE cue: that cue has passed with it and is lost (R63). -/
def leadMove (s : State) : Option State :=
  let ps := partsOf s
  let c := s.csq.lead
  match cueView s c with
  | .ended | .unread => none
  | .badBlock => some (setLead (c.skipItem ps) s)
  | .cue p q =>
    if cueValid s ps p c.prev q = false then
      some (setLead (c.step ps c.prev) (if isStrikeKind q then skipInvalid s else s))
    else if isStrikeKind q = false then some (setLead (c.step ps (some q.tick)) s)
    else if s.csq.running = false then none
    else
      let a := strikeAhead s p q
      let tau := tauOf a.seg (cueTick ps p q)
      if c.waiting.isSome ∧ a.unread ≠ c.waiting ∧ tau < showTime s then
        some (setLead (c.step ps (some q.tick)) (underrunAt c s))
      else if a.gate ∨ a.unread.isSome then none
      else if tau - Config.strikeAheadUs < showTime s then some (dispatchLead p q tau (underrunAt c s))
      else none

/-! ## Wake-ups (R70) -/

/-- R70: the onset show time of a wake-up that falls due now. One whose onset passes while it waits for an unread
block is answered late, with that onset, and is not skipped as R63 skips a strike (DEDUCED, log entry 29). -/
def wakeTau (s : State) (w : WakeUp) : Option Int :=
  let a := wakeAhead s w.part w.tick
  let tau := tauOf a.seg w.tick
  if a.gate ∨ a.unread.isSome ∨ showTime s < tau - Config.strikeAheadUs then none else some tau

/-- The first wake-up due, with its onset. -/
def firstWake (s : State) : List WakeUp → Option (WakeUp × Int)
  | [] => none
  | w :: l =>
    match wakeTau s w with
    | some tau => some (w, tau)
    | none => firstWake s l

/-- R70: a wake-up is answered with an onset and leaves the list. -/
def answerWakeUp (w : WakeUp) (tau : Int) (s : State) : State :=
  takeWakeUp w.record (realOf s tau)
    (s.modCsq fun c => { c with wakeups := c.wakeups.filter fun x => x.record != w.record })

/-- R70: the wake-ups due are answered; `n` bounds them. -/
def answerWakeUps : Nat → State → State
  | 0, s => s
  | n + 1, s =>
    match firstWake s s.csq.wakeups with
    | none => s
    | some (w, tau) => answerWakeUps n (answerWakeUp w tau s)

/-- R70: the wake-ups of a part that ends, which an unread block held until then: the pointers leave that block
behind, and each is answered with the onset of its own part, by the segment in force at the part's end (DEDUCED, log
entry 29). `n` bounds them. -/
def lateWakeUps : Nat → State → State
  | 0, s => s
  | n + 1, s =>
    match s.csq.wakeups.find? fun w => decide (w.part ≤ s.csq.seg.part) with
    | none => s
    | some w => lateWakeUps n (answerWakeUp w (tauNow s w.tick) s)

/-- Strokes that 16 records may hold. -/
abbrev wakeFuel : Nat := 192

/-- R70: the wake-ups due while the beat clock runs. -/
def wakeUpsDue (s : State) : State := if s.csq.running then answerWakeUps wakeFuel s else s

/-! ## Both pointers -/

/-- The item a pointer waits for, as it stands. -/
def waitsFor (s : State) (c : Cursor) (runToo : Bool) : Option Nat :=
  match cueView s c with
  | .ended | .badBlock => none
  | .unread => some c.item
  | .cue p q =>
    if runToo ∧ isStrikeKind q then
      let a := strikeAhead s p q
      if a.gate then none else a.unread
    else none

/-- Where the pointers stand, they wait or have caught up (R63). -/
def markWaiting (s : State) : State :=
  s.modCsq fun c =>
    { c with
      play := { c.play with waiting := waitsFor s c.play false }
      lead := { c.lead with waiting := waitsFor s c.lead true } }

/-- While the beat clock stands no cue falls due, and no wait counts: a pointer that still stands at an unread block
waits for it anew (R63, log entry 26). -/
def endWaits (s : State) : State :=
  s.modCsq fun c =>
    { c with play := { c.play with waiting := none }, lead := { c.lead with waiting := none } }

/-- The pointers moved as far as they go at once, the slots they leave taken; `n` bounds the moves. -/
def pumpLoop : Nat → State → State
  | 0, s => markWaiting s
  | n + 1, s =>
    match playMove s with
    | some s' => pumpLoop n (leaveSlots (lookFuel s') s')
    | none =>
      match leadMove s with
      | some s' => pumpLoop n (leaveSlots (lookFuel s') s')
      | none => markWaiting s

/-- The slots that are left, and then the pointers. -/
def movePointers (s : State) : State := pumpLoop (2 * lookFuel s) (leaveSlots (lookFuel s) s)

/-- The pointers while the beat clock stands, in ARMING or at a gate: they dispatch nothing, and step over, skip and
pass what they reach as at any time (R57, R58, R62, R68). -/
def stand (s : State) : State := movePointers (endWaits s)

/-- The pointers, and while the beat clock runs the wake-ups that an unread block held until now (R70). -/
def pump (s : State) : State := if s.csq.running then wakeUpsDue (movePointers s) else stand s

/-! ## Arming (R55, R60) -/

/-- A header in use: the pointers at the first cue, the first segment, the first two fills (R60). The built-in
programme's cue is held at once (R56). -/
def useHeader (ps : List Part) (builtin : Bool) (s : State) : State :=
  let start : Cursor := ⟨firstPos ps, 1, none, none⟩
  let s1 := s.modCsq fun c =>
    { c with
      parts := some ps, builtin := builtin, play := start, lead := start
      seg := ⟨0, 0, 0, (partAt ps 0).tempo⟩ }
  if builtin then pump s1
  else
    match firstPos ps with
    | none => s1
    | some p =>
      let s2 := fillA 1 p s1
      match nextItem ps p with
      | none => s2
      | some q => fillB 2 q s2

/-- The built-in programme is the one to play (R53). -/
def playsBuiltin (s : State) : Bool :=
  let e := s.csq.directory.getD 0 DirEntry.absent
  progNo s == 0 && (!e.present || e.bad)

/-- R55: the Show Engine orders the CSQ to arm. -/
def armCues (s : State) : State :=
  let s1 := s.modCsq fun c => { c.idle with tau := 0 }
  if playsBuiltin s then useHeader (builtinParts s) true s1
  else queueRead .header (s.csq.directory.getD (progNo s) DirEntry.absent).addr s1

/-! ## Cues due -/

/-- R68, with R63 where the pointer waits: the play pointer's cue falls due. -/
def playDue (s : State) : State :=
  if s.csq.running then
    match dueCue s with
    | some x => pump (dispatchPlay x s)
    | none => if cueView s s.csq.play = .unread then recordUnderrun s.csq.play.item s else s
  else s

/-- R69, with R63 where the pointer waits: the lead pointer's strike falls due. -/
def leadDue (s : State) : State :=
  if s.csq.running then
    match cueView s s.csq.lead with
    | .ended | .badBlock => s
    | .unread => recordUnderrun s.csq.lead.item s
    | .cue p q =>
      let a := strikeAhead s p q
      let tau := tauOf a.seg (cueTick (partsOf s) p q)
      if isStrikeKind q = false ∨ a.gate ∨ showTime s < tau - Config.strikeAheadUs then s
      else
        match a.unread with
        | some item => recordUnderrun item s
        | none => pump (dispatchLead p q tau s)
  else s

/-! ## Marks (R72) -/

/-- R72: the next mark is due: its tick lies in the part, its time has come, no gate holds it. -/
def markDue (s : State) : Bool :=
  let t := s.csq.nextMark
  s.csq.running && (strobeMode s).isSome
    && decide (t < (partAt (partsOf s) s.csq.seg.part).length) && decide (tauNow s t ≤ showTime s)
    && !(wakeAhead s s.csq.seg.part t).gate

/-- R72: the mark due is handed to the strobe. -/
def giveMark (s : State) : State :=
  if markDue s then
    (takeMark (s.csq.nextMark % (24 * (partAt (partsOf s) s.csq.seg.part).beats) == 0) s).modCsq
      fun c => { c with nextMark := c.nextMark + 24 }
  else s

/-! ## Part ends (R65, R37) -/

/-- Show time has reached the end of the present part. -/
def partOver (s : State) : Bool :=
  s.csq.running
    && decide (tauNow s (partAt (partsOf s) s.csq.seg.part).length ≤ showTime s)

/-- A pointer moved forward to a position, its item counted (R65; log entry 28). -/
def Cursor.jumpTo (ps : List Part) (q : Pos) : Nat → Cursor → Cursor
  | 0, c => c
  | n + 1, c =>
    match c.pos with
    | none => c
    | some p =>
      match nextItem ps p with
      | some r =>
        if r = q ∨ posLt r q then Cursor.jumpTo ps q n ⟨some r, c.item + 1, none, none⟩
        else ⟨some q, c.item, none, none⟩
      | none => ⟨some q, c.item, none, none⟩

/-- R65: a pointer that still lies before part `i` stands at its first cue. -/
def Cursor.toPart (ps : List Part) (fuel i : Nat) (c : Cursor) : Cursor :=
  match c.pos with
  | none => c
  | some p =>
    if i ≤ p.part then c
    else
      match firstPosFrom ps i with
      | some q => c.jumpTo ps q fuel
      | none => ⟨none, c.item + fuel, none, none⟩

/-- R65: the next part begins. -/
def nextPart (s : State) : State :=
  let ps := partsOf s
  let i := s.csq.seg.part + 1
  let fuel := lookFuel s
  s.modCsq fun c =>
    { c with
      seg := rollTo ps i c.seg, nextMark := 0
      play := c.play.toPart ps fuel i, lead := c.lead.toPart ps fuel i }

/-- R65, R37, R52, R95, R115: the programme ends. -/
def programmeEnds (s : State) : State :=
  let tau := tauNow s (partAt (partsOf s) s.csq.seg.part).length
  let s1 := strobeLow (s.modCsq fun c => { c with running := false, tau := tau })
  (parkChecks (bellsEnd (clearGate (setEngine .settling s1)))).modCsq Csq.idle

/-- R65: the part that is over ends. -/
def endPart (s : State) : State :=
  if s.csq.seg.part + 1 < (partsOf s).length then pump (nextPart (lateWakeUps wakeFuel s))
  else programmeEnds s

/-- R65: parts end while show time has reached their end; `n` bounds them. -/
def endParts : Nat → State → State
  | 0, s => s
  | n + 1, s => if partOver s then endParts n (endPart s) else s

/-! ## Resume (R46, R67) -/

/-- The lead pointer's move at the resume: a cue due at the play pointer that comes before it in the walk goes
first. -/
def leadTurn (s : State) : Option State :=
  match dueCue s, s.csq.lead.pos with
  | some _, none => none
  | some x, some l => if posLt l x.1 then leadMove s else none
  | none, _ => leadMove s

/-- R67, step 4: the cues that waited, strikes among them, are taken at once in walk order, until none is due or the
clock stops; `n` bounds them. -/
def takeWaiting : Nat → State → State
  | 0, s => markWaiting s
  | n + 1, s =>
    if s.csq.running then
      match playMove s with
      | some s' => takeWaiting n (leaveSlots (lookFuel s') s')
      | none =>
        match leadTurn s with
        | some s' => takeWaiting n (leaveSlots (lookFuel s') s')
        | none =>
          match dueCue s with
          | some x => takeWaiting n (leaveSlots (lookFuel s) (dispatchPlay x s))
          | none => markWaiting s
    else stand s

/-- What is due at the resume moment: waiting cues, marks, wake-ups, and the parts that end with it. -/
def playWaiting : Nat → State → State
  | 0, s => s
  | n + 1, s =>
    let s1 := wakeUpsDue (giveMark (takeWaiting (3 * lookFuel s) (leaveSlots (lookFuel s) s)))
    if partOver s1 then playWaiting n (endPart s1) else s1

/-- R67: the Gate Unit orders the resume. -/
def resumeClock (s : State) : State :=
  playWaiting 9 (s.modCsq fun c =>
    { c with
      seg := { c.seg with tau0 := c.tau, tick0 := c.gateTick }
      anchorReal := s.now, anchorTau := c.tau, running := true, gateAfter := none })

/-- R46: the settle timer expires. -/
def settleExpires (s : State) : State :=
  resumeClock (modGate (fun g => { g with phase := .ahead, settle := none }) (setEngine .running s))

/-! ## Stopping (R71) -/

/-- R71: the station withdraws. -/
def cuesWithdraw (s : State) : State :=
  strobeLow (s.modCsq fun c =>
    { c with
      running := false, tau := showTime s, play := Cursor.nowhere, lead := Cursor.nowhere, port := []
      slotA := CueSlot.vacant, slotB := CueSlot.vacant, wakeups := [], gateAfter := none
      gatesDone := [] })

end Sys2Proof.Machine
end

