-- ==== Sys2Proof/Machine/Engine.lean ====
section
/-! DEFINITION. The Show Engine (chapter 2): menus, calling, answering, selection, arming, withdrawal;
taking a GO (R49, R50); and the entry to STOPPED (R160, R172), which every block takes. -/

namespace Sys2Proof.Machine

/-! ## The menu (R18, R19) -/

/-- The level used for the menu: CLOSED taken as QUIET. -/
def menuLevel (s : State) : Level := restrictive .opened s.sck.level

/-- R18, condition 2: a required figure is configured and PARKED. -/
def figureFit (s : State) (f : Nat) : Bool := (figRec s f).isSome && (figRun s f).state == .parked

/-- R18, condition 3: a required bell is configured and enabled. -/
def bellFit (s : State) (b : Nat) : Bool := ((bellRec s b).map (·.enabled)) == some true

/-- R18: programme `p`, 1 to 31, is a member of the menu. -/
def inMenu (s : State) (p : Nat) : Bool :=
  let e := s.csq.directory.getD p DirEntry.absent
  e.present && !e.bad && (Bits.toList e.figures).all (figureFit s)
    && (Bits.toList e.bells).all (bellFit s) && (e.bells == 0 || s.chr.rail != .cut)
    && (menuLevel s == .opened || e.quietFit)

/-- The station's menu now. -/
def menuOf (s : State) : Set32 :=
  Bits.ofList 32 ((List.range 32).filter fun p => p == 0 || inMenu s p)

/-! ## Slot moments and calling (R20 to R22) -/

/-- The conditions of R20 for a slot. -/
def mayCall (s : State) (slot : Nat) : Bool :=
  s.iml.station == .inService && decide (s.sck.grade ≤ 14)
    && (s.sck.level != .closed || slot == Config.serviceSlot)

/-- R20: a slot moment. -/
def slotMoment (slot : Nat) (kind : Option SlotKind) (day : Nat) (requested : Option Nat) (s : State) :
    State :=
  match s.she.engine with
  | .idle =>
    if mayCall s slot then
      s.modShe fun h =>
        { h with
          engine := .callWait
          pend := some ⟨slot, kind, day, requested, some (s.now + ownNo s * Config.callDelayUs)⟩ }
    else s
  | .callWait | .calling | .answered => raiseFault .slotSkipped 255 s
  | .arming | .gateWait | .running | .settling => raiseFault .slotSkipped (progNo s) s

/-- R21: the preferred programme of a CALL. -/
def preferred (s : State) (p : PendingSlot) : Nat :=
  match p.requested with
  | some r => r
  | none =>
    match entryInForce s, p.kind with
    | some e, some .hour => e.prefHour
    | some e, some .other => e.prefOther
    | some _, none | none, _ => 0

/-- R21: the call delay expires. -/
def callDelayExpires (p : PendingSlot) (s : State) : State :=
  if mayCall s p.slot then
    let m := menuOf s
    let pref := preferred s p
    queueFrame (.call p.slot pref m s.sck.level) (s.modShe fun h =>
      { h with
        engine := .calling, pend := some { p with delay := none }
        gather := some ⟨s.bus.nextId, p.slot, pref, m, s.sck.level, none, [], none⟩ })
  else enterIdle s

/-- R22: the own CALL of this number is read back. -/
def callReadBack (id : Nat) (s : State) : State :=
  match s.she.gather with
  | some g =>
    if g.callFrame = id ∧ s.she.engine = .calling ∧ g.window = none ∧ g.agree = none then
      s.modShe fun h => { h with gather := some { g with window := some (s.now + Config.gatherUs) } }
    else s
  | none => s

/-! ## Heard slots (R10, R23) -/

/-- The time from a slot's moment to the station's own time of day, within the own day, in ms, and
whether the moment comes first. -/
def slotGap (s : State) (slot : Nat) : Nat × Bool :=
  let m := slot * Config.minuteMs
  let t := timeOfDay s
  if m ≤ t then (t - m, true) else (m - t, false)

/-- R10: the day of a heard slot: the one whose moment lies nearest to the station's own time. Where two
lie equally near it is a free value; the days run round modulo 36,525 (log entry 10). -/
def nearestDay (s : State) (slot : Nat) : Nat :=
  let d := dayNo s
  let g := slotGap s slot
  let half := Config.dayMs / 2
  if g.1 < half ∨ (g.1 = half ∧ Config.halfDayTie slot d = true) then d
  else if g.2 then (d + 1) % Config.centuryDays
  else (d + Config.centuryDays - 1) % Config.centuryDays

/-- The distance of that moment from the station's own time, in ms. -/
def slotDistance (s : State) (slot : Nat) : Nat := min (slotGap s slot).1 (Config.dayMs - (slotGap s slot).1)

/-- R23: the day of a heard CALL: the own day for slot 2047. -/
def callDay (s : State) (slot : Nat) : Nat :=
  if slot = Config.serviceSlot then dayNo s else nearestDay s slot

/-- R10: a heard slot is the last-slot record's. -/
def isLastSlot (s : State) (slot : Nat) : Bool :=
  slot != Config.serviceSlot && s.sck.lastSlot == some (slot, nearestDay s slot)

/-- R23: a CALL for a slot is acceptable (but for the engine's state). -/
def callAcceptable (s : State) (slot : Nat) : Bool :=
  s.iml.station == .inService
    && (slot == Config.serviceSlot || s.sck.grade == 15 || decide (slotDistance s slot ≤ Config.graceMs))
    && !isLastSlot s slot && (s.sck.level != .closed || slot == Config.serviceSlot)

/-! ## Answering (R24 to R26) -/

/-- R24: a CALL of `src` for a slot is answered. -/
def answerCall (src slot : Nat) (s : State) : State :=
  queueFrame (.menu slot src (menuOf s)) (s.modShe fun h =>
    { h with
      engine := .answered, pend := none, gather := none
      answer := some ⟨slot, callDay s slot, src, s.bus.nextId, none⟩ })

/-- R25: a CALL for the own slot heard in CALLING. -/
def callWhileCalling (src : Nat) (g : Gather) (s : State) : State :=
  match g.window, g.agree with
  | none, none => answerCall src g.slot (removeFrame g.callFrame s)
  | some _, _ => if src < ownNo s then answerCall src g.slot s else s
  | none, some a => if src < ownNo s then answerCall src g.slot (removeFrame a.frame s) else s

/-- R26: a CALL for the answered slot from a lower caller. -/
def moveToCaller (src : Nat) (a : AnswerRec) (s : State) : State :=
  let s1 := removeFrame a.menuFrame s
  queueFrame (.menu a.slot src (menuOf s)) (s1.modShe fun h =>
    { h with answer := some { a with caller := src, menuFrame := s1.bus.nextId, wait := none } })

/-- R22, R23, R25, R26: a heard CALL. -/
def takeCall (src : Nat) (c : CallIn) (s : State) : State :=
  if isStation src ∧ src ≠ ownNo s then
    match s.she.engine with
    | .idle => if callAcceptable s c.slot then answerCall src c.slot s else s
    | .callWait =>
      if callAcceptable s c.slot then
        answerCall src c.slot
          (if (s.she.pend.map (·.slot)) = some c.slot then s else raiseFault .slotSkipped 255 s)
      else s
    | .calling =>
      match s.she.gather with
      | some g => if g.slot = c.slot then callWhileCalling src g s else s
      | none => s
    | .answered =>
      match s.she.answer with
      | some a => if a.slot = c.slot ∧ src < a.caller then moveToCaller src a s else s
      | none => s
    | .arming | .gateWait | .running | .settling => s
  else s

/-- R24: the own MENU of this number is read back. -/
def menuReadBack (id : Nat) (s : State) : State :=
  match s.she.answer with
  | some a =>
    if a.menuFrame = id ∧ s.she.engine = .answered then
      s.modShe fun h => { h with answer := some { a with wait := some (s.now + Config.agreeWaitUs) } }
    else s
  | none => s

/-- R24: the AGREE wait expires. -/
def agreeWaitExpires (a : AnswerRec) (s : State) : State :=
  raiseFault .slotLost a.caller (enterIdle (writeLastSlot a.slot a.day s))

/-! ## Gathering and selection (R27 to R29) -/

/-- R27: an answer entered; a second one from a source replaces the first. -/
def putAnswer (src : Nat) (menu : Set32) (l : List (Nat × Set32)) : List (Nat × Set32) :=
  l.filter (fun x => x.1 != src) ++ [(src, menu)]

/-- R27: a heard MENU. -/
def takeMenu (src : Nat) (m : MenuIn) (s : State) : State :=
  match s.she.gather with
  | some g =>
    if s.she.engine = .calling ∧ g.window.isSome ∧ isStation src ∧ src ≠ ownNo s ∧ m.caller = ownNo s
        ∧ m.slot = g.slot then
      s.modShe fun h => { h with gather := some { g with answers := putAnswer src m.menu g.answers } }
    else s
  | none => s

/-- R28: the rank of a programme; programme 0 has rank 0. -/
def rankOf (s : State) (p : Nat) : Nat :=
  if p = 0 then 0 else (s.csq.directory.getD p DirEntry.absent).rank

/-- R28: the candidate of highest rank, the lower number first. -/
def bestRank (s : State) (l : List Nat) : Nat :=
  l.foldl (fun best p => if rankOf s best < rankOf s p then p else best) 0

/-- R28: the allowed set of a slot. -/
def allowedSet (s : State) (p : PendingSlot) : Set32 :=
  match p.requested with
  | some r => Bits.ofList 32 [r]
  | none => ((entryInForce s).map (·.allowed)).getD 0

/-- R28: the candidates. -/
def candidates (s : State) (p : PendingSlot) (g : Gather) : Set32 :=
  (g.answers.foldl (fun m a => m &&& a.2) g.menu) &&& Bits.insert (allowedSet s p) 0

/-- R28: the choice. -/
def choose (s : State) (p : PendingSlot) (g : Gather) : Nat :=
  let c := candidates s p g
  if Bits.mem c g.pref then g.pref else bestRank s (Bits.toList c)

/-- R29: the strike hour of an hour of the day. -/
def strikeHour (h : Nat) : Nat := if h % 12 = 0 then 12 else h % 12

/-- R29: the strike hour of a slot. -/
def hourOfSlot (s : State) (slot : Nat) : Nat :=
  if slot = Config.serviceSlot then strikeHour (minuteOfDay s / 60) else strikeHour (slot / 60)

/-- R29: an agreed level; CLOSED is carried as QUIET. -/
def agreedLevel : Level → Level
  | .closed => .quiet
  | .quiet => .quiet
  | .opened => .opened

/-- R28, R29: the window expires. -/
def windowExpires (p : PendingSlot) (g : Gather) (s : State) : State :=
  let a : AgreeRec :=
    { frame := s.bus.nextId, prog := choose s p g, level := agreedLevel g.level
      hour := hourOfSlot s g.slot, members := Bits.ofList 32 (ownNo s :: g.answers.map (·.1)) }
  queueFrame (.agree g.slot a.prog a.level a.hour a.members) (s.modShe fun h =>
    { h with gather := some { g with window := none, agree := some a } })

/-! ## Agreement (R30 to R32) -/

/-- R32: the station enters ARMING; a show of slot 2047 lifts the lamp hold (R138). -/
def enterArming (r : ShowRec) (s : State) : State :=
  openGate0 (armCues (writeLastSlot r.slot r.day
    (judgeHold s (s.modShe fun _ => ⟨.arming, none, none, none, some r⟩))))

/-- Whether a frame is a CALL, MENU or AGREE for a slot. -/
def isTalkOf (slot : Nat) : Content → Bool
  | .call n _ _ _ | .menu n _ _ | .agree n _ _ _ _ => n == slot
  | .hello _ | .time _ | .withdraw _ _ | .ready _ _ | .go _ _ _ | .claim _ _ | .release _ | .fault _ _
  | .status _ _ => false

/-- R30, R31: the station does not arm, its menu having changed. -/
def menuChanged (slot day prog : Nat) (s : State) : State :=
  enterIdle (raiseFault .withdrawn prog (writeLastSlot slot day
    (queueFrame (.withdraw slot .menuChanged) (removeFrames (isTalkOf slot) s))))

/-- R30, R31: an AGREE that names the station, for its slot. -/
def agreeOrChange (r : ShowRec) (s : State) : State :=
  if Bits.mem (menuOf s) r.prog then enterArming r s else menuChanged r.slot r.day r.prog s

/-- R30: the own AGREE of this number is read back. -/
def agreeReadBack (id : Nat) (s : State) : State :=
  match s.she.gather, s.she.pend with
  | some g, some p =>
    match g.agree with
    | some a =>
      if a.frame = id ∧ s.she.engine = .calling then
        agreeOrChange ⟨g.slot, p.day, a.prog, a.level, a.hour, a.members, false⟩ s
      else s
    | none => s
  | _, _ => s

/-- The station's slot in a negotiation, with its day (R31). -/
def talkSlot (s : State) : Option (Nat × Nat) :=
  match s.she.engine with
  | .callWait | .calling => s.she.pend.map fun p => (p.slot, p.day)
  | .answered => s.she.answer.map fun a => (a.slot, a.day)
  | .idle | .arming | .gateWait | .running | .settling => none

/-- R31: an AGREE heard in IDLE that names the station. Only a station in a sending state sends. No own CALL,
MENU or AGREE is removed: that removal is read as for the cases that bring the station to IDLE (DEDUCED, log
entry 37). -/
def agreeInIdle (a : AgreeIn) (s : State) : State :=
  if Bits.mem a.members (ownNo s) ∧ isLastSlot s a.slot = false then
    writeLastSlot a.slot (callDay s a.slot)
      (if maySend s then queueFrame (.withdraw a.slot .notArmed) s else s)
  else s

/-- R31: a heard AGREE. -/
def takeAgree (src : Nat) (a : AgreeIn) (s : State) : State :=
  if isStation src ∧ src ≠ ownNo s then
    match s.she.engine with
    | .idle => agreeInIdle a s
    | .callWait | .calling | .answered =>
      match talkSlot s with
      | some x =>
        if x.1 = a.slot then
          if Bits.mem a.members (ownNo s) then
            agreeOrChange ⟨a.slot, x.2, a.prog, a.level, a.hour, a.members, false⟩ s
          else
            raiseFault .notIncluded src (enterIdle (writeLastSlot a.slot x.2
              (removeFrames (isTalkOf a.slot) s)))
        else s
      | none => s
    | .arming | .gateWait | .running | .settling => s
  else s

/-! ## Withdrawal (R34, R35, R71, R94, R113, R138) -/

/-- The own number leaves the participant set and the withdrawal flag is set. -/
def leaveShow (s : State) : State :=
  s.modShe fun h =>
    { h with showRec := h.showRec.map fun r =>
        { r with members := Bits.erase r.members (ownNo s), withdrawn := true } }

/-- The WITHDRAW of the show is queued; a muted station sends none. -/
def sendWithdraw (reason : Reason) (s : State) : State :=
  if isMuted s then s else queueFrame (.withdraw (showSlot s) reason) s

/-- The Figure Unit's part of a withdrawal (R113, R114). -/
def figsLeave (s : State) : State := if isMuted s then muteFigures s else figsWithdraw s

/-- R34: a withdrawal from a show in ARMING, GATE_WAIT or RUNNING. -/
def withdrawRunning (reason : Reason) (s : State) : State :=
  let s1 := sendWithdraw reason (raiseFault .withdrawn (progNo s) (leaveShow s))
  lampsOut (clearGate (cuesWithdraw (figsLeave (bellsWithdraw (setEngine .settling s1)))))

/-- R34: a withdrawal cause in SETTLING, the flag clear (log entry 32). -/
def withdrawSettling (reason : Reason) (s : State) : State :=
  lampsOut (sendWithdraw reason (leaveShow s))

/-- R34: a withdrawal cause. -/
def withdrawShow (reason : Reason) (s : State) : State :=
  match s.she.engine with
  | .arming | .gateWait | .running => withdrawRunning reason s
  | .settling =>
    if (s.she.showRec.map (·.withdrawn)) = some false then withdrawSettling reason s else s
  | .idle | .callWait | .calling | .answered => s

/-- R35: a heard WITHDRAW for a slot. -/
def takeWithdraw (src slot : Nat) (s : State) : State :=
  if isStation src ∧ src ≠ ownNo s ∧ slot = showSlot s then removeMember src s else s

/-! ## GO (R49, R50) -/

/-- R49: a GO is taken by the gate record. -/
def goTaken (s : State) (g : GateRec) (src : Nat) (x : GoIn) : Bool :=
  g.phase != .released && x.slot == showSlot s && g.number == some x.gate && Bits.mem (participants s) src

/-- R49, R50: a GO, heard or read back. -/
def takeGo (src : Nat) (x : GoIn) (s : State) : State :=
  match s.gtu.gate with
  | some g =>
    if goTaken s g src x then
      let m := participants s
      let s1 := excludePeers (setMembers (m &&& x.members) s) (Bits.toList (m &&& ~~~ x.members))
      if g.phase = .ready ∧ Bits.mem x.members (ownNo s) then releaseGate g s1
      else withdrawShow .excluded s1
    else s
  | none =>
    if s.she.engine = .settling ∧ x.slot = showSlot s ∧ Bits.mem (participants s) src
        ∧ Bits.mem x.members (ownNo s) = false then withdrawShow .excluded s
    else s

/-! ## End of a show (R37) -/

/-- A figure keeps the station in SETTLING. -/
def figureBusy (r : FigRun) : Bool :=
  match r.state with
  | .waitZone | .moving | .paused | .homing => true
  | .unhomed | .parked | .jammed | .failed => false

/-- The three conditions of R37. -/
def settled (s : State) : Bool :=
  s.she.engine == .settling && s.bel.strikes.isEmpty && dampersDown s && !(s.fig.run.any figureBusy)

/-! ## Entry to STOPPED (R38, R114, R131, R159, R160, R172) -/

/-- R38: the Show Engine as the station becomes STOPPED. -/
def engineStops (s : State) : State :=
  match talkSlot s with
  | some x => enterIdle (removeFrames (isTalkOf x.1) s)
  | none => withdrawShow .stopped s

/-- R166, R172: the cue memory does not answer in operation. -/
def stopUnmuted (s : State) : State :=
  if s.iml.station = .stopped then s
  else
    engineStops ((raiseFault .imageUnreadable 0 s).modIml fun i =>
      { i with station := .stopped, muted := false })

/-- R150, R152, R159: the transmitter as its queue is emptied: an attempt on the line ends with a break,
uncounted. A break in progress runs to its own end, after which the transmitter is IDLE (DESIGN CHOICE, log entry
53). -/
def txStopped (s : State) : TxState :=
  match s.bus.tx with
  | .sending => .breaking (s.now + breakUs s) false
  | .breaking e _ => .breaking e false
  | .idle | .retryWait => .idle

/-- The transmit queue emptied without loss reports. -/
def emptyQueue (s : State) : State :=
  s.modBus fun b => { b with queue := [], current := none, fails := 0, tx := txStopped s }

/-- A restart that waits for its WITHDRAW goes on at once (R165). -/
def RestartWait.goOn : RestartWait → RestartWait
  | .awaiting _ => .due
  | .due => .due
  | .none => .none

/-- R172: a STOP fault that mutes the station. -/
def stopMuted (code : FaultCode) (detail : Nat) (s : State) : State :=
  let s1 := (recordFault code detail s).modIml fun i =>
    { i with station := .stopped, muted := true, listen := none, restart := i.restart.goOn }
  muteZones (muteFigures (engineStops (emptyQueue s1)))

/-! ## Restart request (R165) -/

/-- The WITHDRAW of a restart in the queue. -/
def restartFrame (s : State) : Option Nat :=
  (s.bus.queue.find? fun f => f.content == .withdraw (showSlot s) .restart).map (·.id)

/-- R165: a RESTART accepted for the station. -/
def acceptRestart (s : State) : State :=
  if s.iml.restart = .none then
    if inShow s ∧ (s.she.showRec.map (·.withdrawn)) = some false then
      let s1 := withdrawShow .restart s
      s1.modIml fun i =>
        { i with restart := match restartFrame s1 with
            | some id => .awaiting id
            | none => .due }
    else s.modIml fun i => { i with restart := .due }
  else s

end Sys2Proof.Machine
end

