-- ==== Sys2Proof/Machine/Port.lean ====
section
/-! DEFINITION. Reads of the cue memory port that end: the programme header (R55) and cue blocks (R62),
with the answer of a memory that is silent (R59, R166). -/

namespace Sys2Proof.Machine

/-- R54, R55: the header fails; the programme is unarmable. -/
def headerFails (s : State) : State := withdrawShow .armingFailed (markBad s)

/-- The library size of the image header, in cue records. -/
def libSize (s : State) : Nat := (s.iml.header.map (·.libSize)).getD 0

/-- R55: a header read with a good sum, checked field by field. -/
def headerGood (data : List Byte) (s : State) : State :=
  match parseHeader (libSize s) (readBytes 204 data) with
  | some ps => gateCheck (useHeader ps false s)
  | none => headerFails s

/-- R55, R59: a header read ends. -/
def headerRead (r : PortRead) (data : List Byte) (s : State) : State :=
  match judgeRead r data, r.attempt with
  | .good, _ => headerGood data (popRead s)
  | .badSum, 1 | .silent, 1 => retryRead s
  | .badSum, _ => headerFails (popRead s)
  | .silent, _ => stopUnmuted (popRead s)

/-- The slot a read is for, while that slot still waits for the read's item. -/
def slotFor (s : State) : ReadFor → Option CueSlot
  | .header => none
  | .slotA item => if s.csq.slotA.state = .filling ∧ s.csq.slotA.item = item then some s.csq.slotA else none
  | .slotB item => if s.csq.slotB.state = .filling ∧ s.csq.slotB.item = item then some s.csq.slotB else none

/-- The slot a read is for is set. -/
def putSlot (use : ReadFor) (sl : CueSlot) (s : State) : State :=
  match use with
  | .header => s
  | .slotA _ => s.modCsq fun c => { c with slotA := sl }
  | .slotB _ => s.modCsq fun c => { c with slotB := sl }

/-- R62: a block is READY: it is reported, and waiting pointers go on (R63). Readiness is checked before they move
(DEDUCED, log entry 50). -/
def blockGood (use : ReadFor) (sl : CueSlot) (data : List Byte) (s : State) : State :=
  pump (gateCheck (putSlot use { sl with state := .ready, cues := parseBlock (readBytes 258 data) } s))

/-- R62, R40: a block has failed twice. -/
def blockFails (use : ReadFor) (sl : CueSlot) (s : State) : State :=
  let s1 := markBad (putSlot use { sl with state := .bad } s)
  if s.she.engine = .arming ∧ sl.item = 1 then withdrawShow .armingFailed s1
  else pump (gateCheck s1)

/-- R59, R62: a block read ends. A read whose slot was taken for another item meanwhile sets nothing
(log entry 28). -/
def blockRead (r : PortRead) (data : List Byte) (s : State) : State :=
  match judgeRead r data, r.attempt, slotFor s r.use with
  | .badSum, 1, _ | .silent, 1, _ => retryRead s
  | .good, _, some sl => blockGood r.use sl data (popRead s)
  | .badSum, _, some sl => blockFails r.use sl (popRead s)
  | .silent, _, some _ => stopUnmuted (putSlot r.use CueSlot.vacant (popRead s))
  | .silent, _, none => stopUnmuted (popRead s)
  | .good, _, none | .badSum, _, none => popRead s

end Sys2Proof.Machine
end

