-- ==== Sys2Proof/Machine/Clock.lean ====
section
/-! DEFINITION. The Station Clock (chapter 1): calendar, level, quiet override, slot moments, steps,
adoption and slew. -/

namespace Sys2Proof.Machine

/-! ## Calendar (R4) -/

/-- R4: a (month, day) within an entry's dates, which may wrap over the year end. -/
def inDates (e : CalEntry) (m d : Nat) : Bool :=
  let x := 32 * m + d
  let a := 32 * e.firstMonth + e.firstDay
  let b := 32 * e.lastMonth + e.lastDay
  if a ≤ b then decide (a ≤ x ∧ x ≤ b) else decide (a ≤ x ∨ x ≤ b)

/-- R4: an entry matches a day. -/
def entryMatches (e : CalEntry) (day : Nat) : Bool :=
  let d := dateOf day
  e.valid && inDates e d.2.1 d.2.2 && Bits.mem e.weekdays (day % 7)

/-- R4: the entry for a day: the first of entries 1 on that matches, else entry 0. -/
def matchDay (cal : List CalEntry) (day : Nat) : Option Nat :=
  if cal = [] then none
  else
    match (cal.drop 1).findIdx? fun e => entryMatches e day with
    | some i => some (i + 1)
    | none => some 0

/-- R4: the calendar is matched against the present date. -/
def matchCalendar (s : State) : State :=
  s.modSck fun k => { k with entry := matchDay k.calendar (dayNo s) }

/-! ## Level (R5) -/

/-- R5, case 3: the level of a minute by an entry's boundaries. -/
def minuteLevel (e : CalEntry) (m : Nat) : Level :=
  if e.openFrom ≤ m ∧ m < e.quietFrom then .opened
  else if e.quietFrom ≤ m ∧ m < e.closedFrom then .quiet
  else .closed

/-- R5: the operating level now. -/
def levelOf (s : State) : Level :=
  match entryInForce s with
  | none => .closed
  | some e =>
    if s.sck.grade = 15 then .quiet
    else
      match minuteLevel e (minuteOfDay s) with
      | .opened => if s.sck.quiet.isSome then .quiet else .opened
      | .quiet => .quiet
      | .closed => .closed

/-- R5: the level is recomputed, and the lamp hold judged by it (R138). -/
def recomputeLevel (s : State) : State := judgeHold s (s.modSck fun k => { k with level := levelOf s })

/-! ## Slot table (R8, R9) -/

/-- R8: a slot table entry lists a slot. -/
def lists (id : Nat) (e : SlotEntry) : Bool := e.minute == id % 60 && Bits.mem e.hours (id / 60)

/-- R8: the table lists a slot. -/
def listed (tab : List SlotEntry) (id : Nat) : Bool := tab.any (lists id)

/-- R8: the kind of a listed slot. -/
def slotKind (tab : List SlotEntry) (id : Nat) : SlotKind :=
  if tab.any (fun e => lists id e && e.kind == .hour) then .hour else .other

/-- R9: the moment of a listed slot, unless the last-slot record holds it. -/
def raiseSlot (id day : Nat) (s : State) : State :=
  if listed s.sck.slots id ∧ s.sck.lastSlot ≠ some (id, day) then
    slotMoment id (some (slotKind s.sck.slots id)) day none s
  else s

/-! ## Minute boundaries (R1, R5, R6, R9) -/

/-- ms of the whole range of dates. -/
abbrev centuryMs : Nat := Config.centuryDays * Config.dayMs

/-- Minutes of the whole range of dates. -/
abbrev centuryMinutes : Nat := Config.centuryDays * 1440

/-- R1: the clock has passed the end of 2099: it goes to the start of 2000, grade 15, age timer
stopped, slew cleared. -/
def wrapCentury (s : State) : State :=
  if clockMs s < centuryMs then s
  else s.modSck fun k =>
    { k with
      clkMs := clockMs s - centuryMs, clkAt := s.now, grade := 15, ageTimer := none, slew := 0
      slewTimer := none }

/-- The present minute, counted from 2000-01-01. -/
def minuteNo (s : State) : Nat := clockMs s / Config.minuteMs

/-- R6: the quiet override ends where its moment lies after `a` and at or before `b`, or is `b`. -/
def endQuiet (a b : Nat) (s : State) : State :=
  s.modSck fun k =>
    { k with quiet := k.quiet.filter fun e => !(e == b || (decide (a < e) && decide (e ≤ b))) }

/-- The crossing of a minute boundary: date, override, level, slot moment. Log entry 9. -/
def crossMinute (s : State) : State :=
  if minuteNo s ≤ s.sck.minuteDone then s
  else
    let old := s.sck.minuteDone
    let s1 := wrapCentury s
    let n := minuteNo s1
    let s2 := endQuiet old n (s1.modSck fun k => { k with minuteDone := n })
    raiseSlot (n % 1440) (n / 1440) (recomputeLevel (matchCalendar s2))

/-! ## Steps (R13) -/

/-- The listed slots, ascending. -/
def listedSlots (tab : List SlotEntry) : List Nat := (List.range 1440).filter (listed tab)

/-- Listed moments at or before a time. -/
def momentsUpTo (tab : List SlotEntry) (ms : Nat) : Nat :=
  let l := listedSlots tab
  (ms / Config.dayMs) * l.length
    + (l.filter fun id => decide (id * Config.minuteMs ≤ ms % Config.dayMs)).length

/-- R13: the minute boundary last before a landing point is passed over and lies within the grace. -/
def inGrace (old new : Nat) : Bool :=
  let b := new / Config.minuteMs * Config.minuteMs
  decide (old < b ∧ new - b ≤ Config.graceMs)

/-- R13: the slots of a forward step from `old` to `new`. -/
def stepSlots (old new : Nat) (s : State) : State :=
  let n := new / Config.minuteMs
  let tab := s.sck.slots
  let grace := inGrace old new && listed tab (n % 1440)
  let missed := momentsUpTo tab new - momentsUpTo tab old - (if grace then 1 else 0)
  let s1 := if missed = 0 then s else raiseFault .slotMissed (min missed 255) s
  if grace then raiseSlot (n % 1440) (n / 1440) s1 else s1

/-- R6, R13: the minutes that a step from `old` to `new` reaches or passes for the quiet override, of those not
worked yet: also one that the clock had reached before the step, its MINUTE_BOUNDARY still waiting. The last of them,
none where there are none. -/
def stepReaches (old new : Nat) (s : State) : Option Nat :=
  if old < new then some (new / Config.minuteMs)
  else if s.sck.minuteDone < old / Config.minuteMs then some (old / Config.minuteMs)
  else none

/-- R13: the clock steps to a time in ms since 2000-01-01. A listed moment at which the clock stands as it steps, its
MINUTE_BOUNDARY still waiting, does not lie after the old time: it is neither raised nor missed (DESIGN CHOICE, log
entry 49). -/
def stepClock (new : Nat) (s : State) : State :=
  let old := clockMs s
  let s1 := s.modSck fun k =>
    { k with
      clkMs := new, clkAt := s.now, slew := 0, slewTimer := none, minuteDone := new / Config.minuteMs }
  let s2 := match stepReaches old new s with
    | some n => endQuiet (min s.sck.minuteDone (old / Config.minuteMs)) n s1
    | none => s1
  let s3 := recomputeLevel (matchCalendar s2)
  if old < new then stepSlots old new s3 else s3

/-! ## Adoption, slew, SET_TIME (R12, R14) -/

/-- A frame's length in ms, rounded to the nearest, a half up (R12). -/
def frameMs (s : State) (chars : Nat) : Nat := (chars * charUs s + 500) / 1000

/-- R173: the source is in the service set. -/
def inServiceSet (s : State) (src : Nat) : Bool :=
  decide (32 ≤ src ∧ src ≤ 39) && Bits.mem s.flt.serviceSet (src - 32)

/-- R12: a heard time is adopted. -/
def adopts (s : State) (src : Nat) (x : TimeIn) : Bool :=
  (x.grade != 0 || inServiceSet s src) && decide (x.grade < 14 ∧ x.grade + 1 ≤ s.sck.grade)
    && decide (x.ms + frameMs s 13 < centuryMs)

/-- R12: a slew begins; the clock's reading is its start (log entry 8). -/
def startSlew (delta : Int) (s : State) : State :=
  s.modSck fun k =>
    { k with
      clkMs := clockMs s, clkAt := s.now, slew := delta
      slewTimer := some (s.now + Config.slewPeriodUs) }

/-- The grade set and the age timer restarted. -/
def setGrade (g : Nat) (s : State) : State :=
  s.modSck fun k => { k with grade := g, ageTimer := some (s.now + Config.ageUs) }

/-- R12: a heard TIME. -/
def takeTime (src : Nat) (x : TimeIn) (s : State) : State :=
  if adopts s src x then
    let s1 := recomputeLevel (setGrade (x.grade + 1) s)
    let new := x.ms + frameMs s 13
    let delta : Int := (new : Int) - clockMs s1
    if delta.natAbs ≤ Config.slewLimitMs then startSlew delta s1 else stepClock new s1
  else s

/-- R12: the clock's advance of a slew period, in ms. -/
def slewAdvance (slew : Int) : Nat := if 0 < slew then 65 else if slew < 0 then 63 else 64

/-- R12: the remaining slew after a period. -/
def slewRest (slew : Int) : Int := if 0 < slew then slew - 1 else if slew < 0 then slew + 1 else 0

/-- R12: a slew period that ended at `d`; the period timer stops when no slew remains. -/
def slewPeriod (d : Nat) (s : State) : State :=
  s.modSck fun k =>
    { k with
      clkMs := k.clkMs + slewAdvance k.slew, clkAt := d, slew := slewRest k.slew
      slewTimer := if slewRest k.slew = 0 then none else some (d + Config.slewPeriodUs) }

/-- R14: an accepted SET_TIME, for a day and a time of day. A value past the end of 2099 changes nothing
(log entry 11). -/
def takeSetTime (day tod : Nat) (s : State) : State :=
  let new := day * Config.dayMs + tod + frameMs s 11
  if tod < Config.dayMs ∧ new < centuryMs then
    recomputeLevel (setGrade 1 (stepClock new s))
  else s

/-- R6: an accepted QUIET_UNTIL. -/
def takeQuiet (minute : Nat) (s : State) : State :=
  if minute = 0xFFFF then recomputeLevel (s.modSck fun k => { k with quiet := none })
  else if minute < 1440 then
    let today := dayNo s * 1440 + minute
    let e := if minuteOfDay s < minute then today else today + 1440
    recomputeLevel (s.modSck fun k => { k with quiet := some (e % centuryMinutes) })
  else s

/-! ## Timers (R2, R11) -/

/-- R2: the age timer, due at `d`, expires. -/
def ageExpires (d : Nat) (s : State) : State :=
  s.modSck fun k => { k with grade := min 14 (k.grade + 1), ageTimer := some (d + Config.ageUs) }

/-- R11: the TIME period, due at `d`, expires. -/
def timePeriodExpires (d : Nat) (s : State) : State :=
  let s1 := s.modSck fun k => { k with timeTimer := some (d + Config.timePeriodUs) }
  if maySend s then queueTime s1 else s1

/-- R11: a HELLO heard brings a TIME. -/
def timeForHello (s : State) : State := if maySend s ∧ s.sck.grade ≤ 14 then queueTime s else s

end Sys2Proof.Machine
end

