-- ==== Sys2Proof/Machine/Bus.lean ====
section
/-! DEFINITION. The Bus Interface (chapter 9): frames heard, discards, arbitration, attempts, collisions,
readbacks, frames queued again, the peer table's silence. -/

namespace Sys2Proof.Machine

/-! ## Receiving (R146, R148 to R150, R157) -/

/-- The station has an attempt of its own on the line. -/
def isSending (s : State) : Bool := s.bus.tx == .sending

/-- The receiver takes characters of other stations: it is on, and no own attempt is on the line. -/
def receives (s : State) : Bool := s.bus.rxOn && !isSending s

/-- The line carried a character that ends now. -/
def lineCharacter (s : State) : State :=
  s.modBus fun b => { b with idleFrom := s.now, lastChar := s.now }

/-- A frame is being assembled: its kind has come and its check byte has not (R147, R148). -/
def midFrame (a : List Byte) : Bool := !a.isEmpty && !(3 ≤ a.length && a.length == byteAt a 2 + 4)

/-- A discard counted RX_BROKEN, reported to the Zone Unit (R148, R122). -/
def countBroken (rest : List Byte) (s : State) : State :=
  markDiscard (s.modBus fun b => { b with assembly := rest, rxBroken := bump 1 b.rxBroken })

/-- The receive assembly set. -/
def setAssembly (a : List Byte) (s : State) : State := s.modBus fun b => { b with assembly := a }

/-- R148: a character's place in the receive assembly: a mark-1 character begins a frame and breaks the
one being assembled, a length above 24 breaks its frame, and a mark-0 character outside a frame is passed
over. -/
def assemble (data : Byte) (mark : Bool) (s : State) : State :=
  let a := s.bus.assembly
  if mark then (if midFrame a then countBroken [data] s else setAssembly [data] s)
  else if midFrame a = false then setAssembly [] s
  else if a.length = 2 ∧ 24 < data.toNat then countBroken [] s
  else setAssembly (a ++ [data]) s

/-- R146, R148: a character received without a framing error. The station's own characters are not
assembled. -/
def takeCharacter (data : Byte) (mark : Bool) (s : State) : State :=
  if s.bus.rxOn then
    let s1 := lineCharacter s
    if isSending s then s1 else assemble data mark s1
  else s

/-- A break on the line until `ends`: the idle time counts from its end (R146). -/
def lineBroken (ends : Nat) (s : State) : State := s.modBus fun b => { b with idleFrom := max s.now ends }

/-- R148: the frame being assembled is broken; a break outside a frame discards nothing (R146). -/
def breakFrame (cause : BreakCause) (s : State) : State :=
  if receives s then
    match cause with
    | .framing | .badLength => countBroken [] (lineCharacter s)
    | .newMark kind => countBroken [kind] (lineCharacter s)
    | .lineBreak ends => countBroken [] (lineBroken ends s)
    | .gap => countBroken [] s
    | .strayBreak ends => lineBroken ends s
  else s

/-- R148: a frame assembled whole whose check byte does not match. -/
def checkFails (s : State) : State :=
  if receives s then
    markDiscard ((lineCharacter s).modBus fun b =>
      { b with assembly := [], rxCheck := bump 1 b.rxCheck })
  else s

/-- R157: the source of a good frame becomes PRESENT, its silence timer restarts. -/
def peerHeard (src : Nat) (s : State) : State :=
  if isStation src ∧ src ≠ ownNo s then
    s.modBus fun b => { b with peers := b.peers.set src (.present (s.now + Config.silenceUs)) }
  else s

/-- R150: a good frame bears the station's own number. -/
def duplicate (s : State) : State :=
  if s.bus.dup then s
  else stopMuted .dupStation (ownNo s) (s.modBus fun b => { b with dup := true })

/-- The end of a frame on the line, heard or read back. -/
def frameEnds (s : State) : State :=
  (lineCharacter s).modBus fun b => { b with assembly := [], frameEnds := b.frameEnds + 1 }

/-- R149, R150, R157: a good frame from a source ends; `owner` takes it. During STARTING of a restart
only TIME is handed on and no peer-table entry is made; a frame bearing the own number is passed over
(log entry 16). -/
def hear (src : Byte) (isTime : Bool) (owner : State → State) (s : State) : State :=
  if receives s then
    let s1 := frameEnds s
    if s.iml.station = .starting then
      if isTime ∧ s.iml.number ≠ some src.toNat then owner s1 else s1
    else if s.iml.number = some src.toNat then duplicate s1
    else owner (peerHeard src.toNat s1)
  else s

/-- A payload's layout is checked before the owner takes it (R178). -/
def withLayout {α : Type} (p : Option α) (owner : α → State → State) (s : State) : State :=
  match p with
  | some x => owner x s
  | none => s

/-- R149: a HELLO heard: ZON (R130), SCK (R11), SHE (R36). -/
def takeHello (src : Nat) (s : State) : State :=
  removeMember src (if isStation src then timeForHello (freeStation src s) else s)

/-- R126, R127: a heard reassert: view, ZONE_LOST for each zone lost, the figures told, and the
counter-reassert of the zones kept against a higher station. Several figures are told in the order of the last zone
that each loses, and each puts its request before those told earlier (DESIGN CHOICE, log entry 52). -/
def takeReassertFrame (src : Nat) (zones : ZoneSet) (s : State) : State :=
  if isStation src ∧ src ≠ ownNo s ∧ Bits.mem zones 0 = false then
    let lost := holdsLost s src zones
    let s1 := lost.foldl (fun s x => raiseFault .zoneLost x.1 s) (takeReassert src zones s)
    let s2 := ((lost.map (·.2)).dedup).foldl figLosesZone s1
    if ownNo s < src then queueReassert false (Bits.toList zones) s2 else s2
  else s

/-- R158: a silence timer expires. -/
def silenceExpires (n : Nat) (s : State) : State :=
  freeStation n (removeMember n (s.modBus fun b => { b with peers := b.peers.set n .silent }))

/-- R158: the silence timer of a station has run out. -/
def silenceDue (s : State) (n : Nat) : Bool :=
  match s.bus.peers.getD n .unknown with
  | .present d => decide (d ≤ s.now)
  | .unknown | .silent => false

/-! ## Arbitration (R154) -/

/-- The oldest frame of a class in the queue. -/
def oldestOf (c : FrameClass) (q : List TxFrame) : Option TxFrame :=
  q.find? fun f => frameClass f.content == c

/-- The first frame that a list of classes gives. -/
def firstOf (q : List TxFrame) : List FrameClass → Option TxFrame
  | [] => none
  | c :: l =>
    match oldestOf c q with
    | some f => some f
    | none => firstOf q l

/-- R154: the order in which classes are taken under ROTATING after the pointer's class. -/
def rotation : FrameClass → List FrameClass
  | .urgent => [.showClass, .routine, .urgent]
  | .showClass => [.routine, .urgent, .showClass]
  | .routine => [.urgent, .showClass, .routine]

/-- R154: the chosen frame. -/
def chosen (s : State) : Option TxFrame :=
  firstOf s.bus.queue (if s.bus.rotating then rotation s.bus.pointer else [.urgent, .showClass, .routine])

/-! ## Attempts (R151, R152) -/

/-- R151: the values of a TIME are taken at the start of each attempt. -/
def takeValues (s : State) (id : Nat) (f : TxFrame) : TxFrame :=
  if f.id = id ∧ isTime f.content then { f with content := .time (some (s.sck.grade, clockMs s)) } else f

/-- R148: a frame still being assembled as an own attempt begins is broken by its gap, since no gap of
R151 is shorter than 2 character times (log entry 6). -/
def dropAssembly (s : State) : State :=
  if midFrame s.bus.assembly then countBroken [] s else setAssembly [] s

/-- R151: an attempt of a frame begins. -/
def beginAttempt (f : TxFrame) (s : State) : State :=
  (dropAssembly s).modBus fun b =>
    { b with tx := .sending, current := some f.id, attemptAt := s.now, queue := b.queue.map (takeValues s f.id) }

/-- R151: the first attempt of the chosen frame, or the next attempt of the frame in RETRY_WAIT, when
the idle time has reached its gap. -/
def attemptStarts (s : State) : State :=
  if transmitterOn s then
    match s.bus.tx with
    | .idle =>
      match chosen s with
      | some f =>
        if accessGap s f.content 0 ≤ idleTime s then
          beginAttempt f (s.modBus fun b =>
            { b with fails := 0, pointer := if b.rotating then frameClass f.content else b.pointer })
        else s
      | none => s
    | .retryWait =>
      match currentFrame s with
      | some f => if accessGap s f.content s.bus.fails ≤ idleTime s then beginAttempt f s else s
      | none => s
    | .sending | .breaking _ _ => s
  else s

/-- The frame in transmission leaves the queue. -/
def leaveQueue (f : TxFrame) (s : State) : State :=
  s.modBus fun b => { b with queue := b.queue.filter (fun g => g.id != f.id), current := none, fails := 0 }

/-- R152: a mismatch; the frame is dropped at its fourth failure. -/
def collide (s : State) : State :=
  match s.bus.tx, currentFrame s with
  | .sending, some f =>
    let last := decide (3 ≤ s.bus.fails)
    let s1 := s.modBus fun b =>
      { b with
        tx := .breaking (s.now + breakUs s) (!last), fails := b.fails + 1
        txCollision := bump 1 b.txCollision }
    if last then onLoss f (raiseFault .txDropped (kindByte f.content) (leaveQueue f s1)) else s1
  | _, _ => s

/-- R152: the break of the transmitter ends; the idle time counts from its end, or from the end of a
break of another station that outlasts it (R146). -/
def breakEnds (s : State) : State :=
  match s.bus.tx with
  | .breaking e retry =>
    if e ≤ s.now then
      s.modBus fun b => { b with tx := if retry then .retryWait else .idle, idleFrom := max b.idleFrom e }
    else s
  | .idle | .sending | .retryWait => s

/-- R153 and the owners' rules: a frame read back is taken by the block that queued it. -/
def readBack (f : TxFrame) (s : State) : State :=
  match f.content with
  | .hello _ => s.modIml fun i => { i with helloPending := false, helloLost := none }
  | .call _ _ _ _ => callReadBack f.id s
  | .menu _ _ _ => menuReadBack f.id s
  | .agree _ _ _ _ _ => agreeReadBack f.id s
  | .ready _ _ => readyReadBack f.id s
  | .go slot gate members => takeGo (ownNo s) ⟨slot, gate, members⟩ s
  | .claim false zones => claimReadBack f.id zones s
  | .release zones => releaseReadBack zones s
  | .claim true _ | .withdraw _ _ | .time _ | .fault _ _ | .status _ _ => s

/-- R152: every character of the attempt has been read back (log entry 41). -/
def frameIsSent (s : State) : State :=
  match s.bus.tx, currentFrame s with
  | .sending, some f =>
    if s.bus.attemptAt + frameChars f.content * charUs s ≤ s.now then
      readBack f (leaveQueue f ((frameEnds s).modBus fun b => { b with tx := .idle }))
    else s
  | _, _ => s

/-! ## Frames queued again (R43, R128, R164, R121) -/

/-- A frame has ended on the line since a loss. -/
def frameSince (s : State) (lost : Option Nat) : Bool :=
  match lost with
  | some n => decide (n < s.bus.frameEnds)
  | none => false

/-- R43: a lost READY is queued again. -/
def requeueReady (s : State) : State :=
  match s.gtu.gate with
  | some g => if g.phase = .readyQueued ∧ frameSince s g.readyLost then queueReady g s else s
  | none => s

/-- R164: the HELLO is queued. -/
def queueHello (s : State) : State :=
  queueFrame (.hello s.iml.role) (s.modIml fun i => { i with helloLost := none })

/-- R164: a lost HELLO is queued again. -/
def requeueHello (s : State) : State :=
  if s.iml.helloPending ∧ frameSince s s.iml.helloLost ∧ maySend s then queueHello s else s

/-- R121: the retry moment of a lost CLAIM. -/
def retryClaim (s : State) : State :=
  if frameSince s s.zon.claimRetry then oweTrial (s.modZon fun z => { z with claimRetry := none }) else s

end Sys2Proof.Machine
end

