-- ==== Sys2Proof/Machine/Image.lean ====
section
/-! DEFINITION. The Image Loader (chapter 10): reading and judging the areas of the image (R161), parsing
and checking the tables (R162, R179 and the owners' rules; Tables 9 to 14), acceptance, stopping at
start, the resets and the restart. -/

namespace Sys2Proof.Machine

/-! ## Areas (R161; Tables 9 and 10) -/

/-- An area of the header at `i`. -/
def parseArea (d : List Byte) (i : Nat) : Area := ⟨le24 d i, le16 d (i + 3)⟩

/-- The image header (Table 9). -/
def parseImgHeader (d : List Byte) : ImgHeader :=
  { config := parseArea d 4, path := parseArea d 9, calendar := parseArea d 14
    directory := parseArea d 19, libBase := le24 d 24, libSize := le24 d 27 }

/-- An area lies within the address space. -/
def areaFits (a : Area) : Bool := decide (a.addr + a.len ≤ Config.memTop)

/-- R161: the check of the header. -/
def headerValid (d : List Byte) : Bool :=
  let h := parseImgHeader d
  le16 d 0 == 0x6C2E && le16 d 2 == 1 && areaFits h.config && areaFits h.path && areaFits h.calendar
    && areaFits h.directory && areaSumGood d

/-- The area a load reads: 1 header, 2 configuration, 3 paths, 4 calendar and slots, 5 directory. -/
def loadArea (s : State) (n : Nat) : Area :=
  match n, s.iml.header with
  | 2, some h => h.config
  | 3, some h => h.path
  | 4, some h => h.calendar
  | 5, some h => h.directory
  | _, _ => ⟨0, 32⟩

/-! ## The cue memory port (R59; views, log entry 34) -/

/-- The read in progress on the cue memory port: the moment it began, its start address and its length.
The Image Loader uses the port while it loads, when the Cue Sequencer holds no programme. -/
def portReading (s : State) : Option (Nat × Nat × Nat) :=
  let r := match s.iml.load, s.csq.port with
    | some l, _ => l.started.map fun t => (t, (loadArea s l.area).addr, (loadArea s l.area).len)
    | none, r :: _ => if readPast r then none else some (r.started, r.addr, readLen r.use)
    | none, [] => none
  r.filter fun x => decide (s.now < x.1 + portTime x.2.2)

/-- MCS is low: a read is in progress, its command and its data bytes within one low period. -/
def memSelected (s : State) : Bool := (portReading s).isSome

/-- The bytes that a read sends: the command 03h and the start address, most significant byte first. -/
def readCommand (addr : Nat) : List Byte :=
  [0x03, BitVec.ofNat 8 (addr / 65536), BitVec.ofNat 8 (addr / 256), BitVec.ofNat 8 addr]

/-- The bytes that MSDO carries in the read in progress. -/
def memCommand (s : State) : List Byte := ((portReading s).map fun x => readCommand x.2.1).getD []

/-- The bits of the bytes sent, each byte most significant bit first (PRESUMED, log entry 34). -/
def memBits (s : State) : List Bool :=
  (memCommand s).flatMap fun b => (List.range 8).map fun i => b.getLsbD (7 - i)

/-- MSCK in half period `h`, of 125 ns, of the read in progress (clock mode 0): low in the first half of
each bit, with the rising edge at which the bit is sampled in its middle; low while no read runs. -/
def memClock (s : State) (h : Nat) : Bool := memSelected s && h % 2 == 1

/-- The counts of a path record lie in its capacity (R179). -/
def pathCounts (d : List Byte) (i : Nat) : Bool :=
  decide (byteAt d i ≤ 8 ∧ byteAt d (i + 1) ≤ 4 ∧ byteAt d (i + 2) ≤ 4)

/-- R161, R179: the check of area `n` by its counts, its length and its sum. -/
def areaValid (n : Nat) (d : List Byte) : Bool :=
  match n with
  | 1 => headerValid d
  | 2 =>
    decide (byteAt d 14 ≤ 12 ∧ byteAt d 15 ≤ 6 ∧ d.length = 66 + 32 * byteAt d 14 + 24 * byteAt d 15)
      && areaSumGood d
  | 3 =>
    d.length == 2754 && ((List.range 64).all fun k => pathCounts d (43 * k)) && areaSumGood d
  | 4 =>
    decide (1 ≤ byteAt d 0 ∧ byteAt d 0 ≤ 16 ∧ byteAt d 1 ≤ 24
      ∧ d.length = 4 + 18 * byteAt d 0 + 6 * byteAt d 1) && areaSumGood d
  | _ => d.length == 258 && areaSumGood d

/-! ## The tables as carried -/

/-- The tables and settings of an image, as carried. -/
structure Image where
  config : List Byte
  path : List Byte
  calendar : List Byte
  directory : List Byte
  deriving DecidableEq, Repr

/-- A station field of the configuration block. -/
def Image.field (m : Image) (i : Nat) : Nat := byteAt m.config i

/-- Where bell record `k` of the configuration block begins. -/
def bellAt (k : Nat) : Nat := 64 + 32 * k

/-- Where figure record `k` begins. -/
def Image.figAt (m : Image) (k : Nat) : Nat := 64 + 32 * m.field 14 + 24 * k

/-- A channel kind code (Table 11). -/
def chanKind : Nat → Option ChanKind
  | 0 => some .off | 1 => some .hammer | 2 => some .damper | 3 => some .motorPwm | 4 => some .motorDir
  | 5 => some .lamp | 6 => some .strobe | _ => none

/-- A channel record; the mode is of use for STROBE. -/
def parseChannel (d : List Byte) (i : Nat) : Option ChanRec :=
  match chanKind (byteAt d i), byteAt d (i + 1) with
  | some .strobe, 1 => some ⟨.strobe, .bar⟩
  | some .strobe, 2 => some ⟨.strobe, .beat⟩
  | some .strobe, _ => none
  | some k, _ => some ⟨k, .bar⟩
  | none, _ => none

/-- A sensor record. -/
def parseSensor (d : List Byte) (i : Nat) : Option SensRec :=
  match byteAt d i, byteAt d (i + 1) with
  | 0, _ => some .off
  | 1, 0 => some (.home true)
  | 1, 1 => some (.home false)
  | 2, 0 => some (.limit true)
  | 2, 1 => some (.limit false)
  | 3, 1 => some (.encoder .rising)
  | 3, 2 => some (.encoder .falling)
  | 3, 3 => some (.encoder .both)
  | _, _ => none

/-- The 16 channel records, each none where it is bad. -/
def Image.channels (m : Image) : List (Option ChanRec) :=
  (List.range 16).map fun k => parseChannel m.config (16 + 2 * k)

/-- The 8 sensor records, each none where it is bad. -/
def Image.sensors (m : Image) : List (Option SensRec) :=
  (List.range 8).map fun k => parseSensor m.config (48 + 2 * k)

/-- A number of which 0 stands for none. -/
def orNone (n : Nat) : Option Nat := if n = 0 then none else some n

/-- The bell record at `i`. -/
def parseBell (d : List Byte) (i : Nat) : BellRec :=
  { hammer := byteAt d (i + 1), damper := orNone (byteAt d (i + 2)), enabled := byteAt d (i + 3) == 1
    curve := (List.range 4).map fun k => (byteAt d (i + 4 + 3 * k), le16 d (i + 5 + 3 * k))
    leadMin := le16 d (i + 16), leadSpan := le16 d (i + 18), minWidth := le16 d (i + 20)
    heatLimit := le32 d (i + 22), cool := le16 d (i + 26), recovery := le16 d (i + 28)
    ring := le16 d (i + 30) }

/-- The bell records with their numbers. -/
def Image.bells (m : Image) : List (Nat × BellRec) :=
  (List.range (m.field 14)).map fun k => (m.field (bellAt k), parseBell m.config (bellAt k))

/-- The figure record at `i`. -/
def parseFigure (d : List Byte) (i : Nat) : FigRec :=
  { motor := byteAt d (i + 1), dir := byteAt d (i + 2), encoder := byteAt d (i + 3)
    home := byteAt d (i + 4), limit := orNone (byteAt d (i + 5)), travelMax := le16 d (i + 6)
    park := le16 d (i + 8), creep := byteAt d (i + 10), slow := le16 d (i + 11)
    window := le16 d (i + 13), jamMs := le16 d (i + 15), homingS := le16 d (i + 17)
    homingZones := (List.range (min 4 (byteAt d (i + 19)))).map fun k => byteAt d (i + 20 + k) }

/-- The figure records with their numbers. -/
def Image.figures (m : Image) : List (Nat × FigRec) :=
  (List.range (m.field 15)).map fun k => (m.field (m.figAt k), parseFigure m.config (m.figAt k))

/-- A path's zone list at `i`, of `n` entries. -/
def parseZones (d : List Byte) (i n : Nat) : List (Nat × Nat) :=
  (List.range n).map fun k => (byteAt d (i + 2 * k), byteAt d (i + 2 * k + 1))

/-- The path record at `i` (Table 12). -/
def parsePath (d : List Byte) (i : Nat) : PathRec :=
  { waypoints := (List.range (byteAt d i)).map fun k => (le16 d (i + 3 + 3 * k), byteAt d (i + 5 + 3 * k))
    zones := parseZones d (i + 27) (byteAt d (i + 1))
    mirrorZones := parseZones d (i + 35) (byteAt d (i + 2)) }

/-- The 64 paths. -/
def Image.paths (m : Image) : List PathRec := (List.range 64).map fun k => parsePath m.path (43 * k)

/-- R3: an entry's own fields are valid; the dates are not checked for entry 0. -/
def calFieldsValid (e : CalEntry) : Bool :=
  decide (1 ≤ e.openCeiling ∧ e.openCeiling ≤ 127 ∧ e.prefHour ≤ 31 ∧ e.prefOther ≤ 31
    ∧ e.openFrom ≤ 1440 ∧ e.quietFrom ≤ 1440 ∧ e.closedFrom ≤ 1440
    ∧ e.openFrom ≤ e.quietFrom ∧ e.quietFrom ≤ e.closedFrom)

/-- R3: the dates of an entry. -/
def calDatesValid (e : CalEntry) : Bool :=
  monthDayValid e.firstMonth e.firstDay && monthDayValid e.lastMonth e.lastDay

/-- The calendar entry at `i`; entry 0 is the default. -/
def parseCal (d : List Byte) (first : Bool) (i : Nat) : CalEntry :=
  let e : CalEntry :=
    { valid := true, firstMonth := byteAt d i, firstDay := byteAt d (i + 1), lastMonth := byteAt d (i + 2)
      lastDay := byteAt d (i + 3), weekdays := d.getD (i + 4) 0, prefHour := byteAt d (i + 5)
      prefOther := byteAt d (i + 6), allowed := set32At d (i + 7), openCeiling := byteAt d (i + 11)
      openFrom := le16 d (i + 12), quietFrom := le16 d (i + 14), closedFrom := le16 d (i + 16) }
  { e with valid := calFieldsValid e && (first || calDatesValid e) }

/-- The calendar, each entry with its valid mark. -/
def Image.entries (m : Image) : List CalEntry :=
  (List.range (byteAt m.calendar 0)).map fun k => parseCal m.calendar (k == 0) (2 + 18 * k)

/-- A slot entry at `i`; none where it is bad (R8, R179). -/
def parseSlot (d : List Byte) (i : Nat) : Option SlotEntry :=
  let hours := set32At d (i + 2)
  if byteAt d i ≤ 59 ∧ hours &&& 0xFF000000 = 0 then
    match byteAt d (i + 1) with
    | 1 => some ⟨byteAt d i, .hour, hours⟩
    | 2 => some ⟨byteAt d i, .other, hours⟩
    | _ => none
  else none

/-- The slot entries, each none where it is bad. -/
def Image.slots (m : Image) : List (Option SlotEntry) :=
  (List.range (byteAt m.calendar 1)).map fun k =>
    parseSlot m.calendar (2 + 18 * byteAt m.calendar 0 + 6 * k)

/-- The directory entry at `i` (Table 14, R179); the fields of an absent entry are not read. -/
def parseDir (d : List Byte) (i : Nat) : DirEntry :=
  let flags := d.getD i 0
  if flags.getLsbD 0 then
    ⟨true, byteAt d (i + 1), flags.getLsbD 1, d.getD (i + 2) 0 &&& 0x7E,
      BitVec.ofNat 16 (le16 d (i + 3)) &&& 0x1FFE, le24 d (i + 5), false⟩
  else DirEntry.absent

/-- The 32 directory entries. -/
def Image.dir (m : Image) : List DirEntry := (List.range 32).map fun k => parseDir m.directory (8 * k)

/-! ## Checks, in the order of R162 -/

/-- A value lies in a range. -/
def within (a b n : Nat) : Bool := decide (a ≤ n ∧ n ≤ b)

/-- R162, R47, R170, R171: the station fields. -/
def stationFieldsValid (m : Image) : Bool :=
  within 1 30 (m.field 0) && within 0 1 (m.field 2) && within 0 1 (m.field 3)
    && (m.field 4 == 0 || within 2 60 (m.field 4)) && within 0 3 (m.field 11) && within 0 1 (m.field 12)

/-- Channel `n` is of a kind. -/
def isChannel (m : Image) (k : ChanKind) (n : Nat) : Bool :=
  within 1 16 n && ((m.channels.getD (n - 1) none).map (·.kind)) == some k

/-- The kind codes of sensors that a figure names. -/
inductive SensKind where
  | home | limit | encoder
  deriving DecidableEq, Repr

/-- The kind of a sensor record. -/
def sensKind : SensRec → Option SensKind
  | .off => none
  | .home _ => some .home
  | .limit _ => some .limit
  | .encoder _ => some .encoder

/-- Sensor `n` is of a kind. -/
def isSensor (m : Image) (k : SensKind) (n : Nat) : Bool :=
  within 1 8 n && ((m.sensors.getD (n - 1) none).bind sensKind) == some k

/-- R134: the channels and sensors that a figure names. -/
def figureNamesValid (m : Image) (f : FigRec) : Bool :=
  isChannel m .motorPwm f.motor && isChannel m .motorDir f.dir && isSensor m .encoder f.encoder
    && isSensor m .home f.home && f.limit.all (isSensor m .limit)

/-- R134: the channels that a bell names. -/
def bellNamesValid (m : Image) (b : BellRec) : Bool :=
  isChannel m .hammer b.hammer && b.damper.all (isChannel m .damper)

/-- Every channel named by a record. -/
def channelUses (m : Image) : List Nat :=
  (m.bells.flatMap fun b => b.2.hammer :: b.2.damper.toList) ++ m.figures.flatMap fun f => [f.2.motor, f.2.dir]

/-- Every sensor named by a record. -/
def sensorUses (m : Image) : List Nat :=
  m.figures.flatMap fun f => [f.2.encoder, f.2.home] ++ f.2.limit.toList

/-- R134: channels, sensors and the records that name them. -/
def channelsValid (m : Image) : Bool :=
  m.channels.all (·.isSome) && m.sensors.all (·.isSome)
    && decide ((m.channels.filter fun c => (c.map (·.kind)) == some .strobe).length ≤ 1)
    && (m.bells.all fun b => bellNamesValid m b.2) && (m.figures.all fun f => figureNamesValid m f.2)
    && decide (channelUses m).Nodup && decide (sensorUses m).Nodup

/-- R74: a curve: velocities 1 to 127 strictly rising, widths 500 to 20,000 never falling. -/
def curveValid (c : List (Nat × Nat)) : Bool :=
  (c.all fun p => within 1 127 p.1 && within 500 20000 p.2)
    && decide (c.Pairwise fun p q => p.1 < q.1 ∧ p.2 ≤ q.2)

/-- R74: the fields of a bell record. -/
def bellFieldsValid (b : BellRec) : Bool :=
  curveValid b.curve && within 0 40000 b.leadMin && within 0 40000 b.leadSpan
    && within 500 5000 b.minWidth && within 1000 200000 b.heatLimit && within 1 10000 b.cool
    && within 5 200 b.recovery && within 100 10000 b.ring

/-- R74, R75, R179: bells and the station bell settings. -/
def bellsValid (m : Image) : Bool :=
  (m.bells.all fun b => within 1 12 b.1 && bellFieldsValid b.2)
    && ((List.range (m.field 14)).all fun k => within 0 1 (m.field (bellAt k + 3)))
    && decide (m.bells.map (·.1)).Nodup && within 1 4 (m.field 6)
    && (m.field 5 == 0xFF || within 0 100 (m.field 5))
    && (m.field 13 == 0 || (m.bells.map (·.1)).contains (m.field 13))

/-- R97: the fields of a figure record. -/
def figureFieldsValid (f : FigRec) : Bool :=
  within 1 65000 f.travelMax && within 0 f.travelMax f.park && within 5 40 f.creep
    && within 0 65000 f.slow && within 0 1000 f.window && within 100 2000 f.jamMs
    && within 5 120 f.homingS && f.homingZones.all (within 1 63) && decide f.homingZones.Nodup

/-- R97, R179: figures. -/
def figuresValid (m : Image) : Bool :=
  (m.figures.all fun f => within 1 6 f.1 && figureFieldsValid f.2)
    && ((List.range (m.field 15)).all fun k => within 0 4 (m.field (m.figAt k + 19)))
    && decide (m.figures.map (·.1)).Nodup

/-- R98: a zone list of a path with `n` waypoints. -/
def zoneListValid (n : Nat) (l : List (Nat × Nat)) : Bool :=
  (l.all fun z => within 1 63 z.1 && within 0 n z.2) && decide (l.map (·.1)).Nodup

/-- R98: paths. -/
def pathValid (p : PathRec) : Bool :=
  (p.waypoints.all fun w => within 0 65000 w.1 && within 0 100 w.2)
    && zoneListValid p.waypoints.length p.zones && zoneListValid p.waypoints.length p.mirrorZones

/-- The checks before those of the calendar's other entries, each with its area's detail. -/
def earlyChecks (m : Image) : List (Bool × Nat) :=
  [(stationFieldsValid m, 2), (channelsValid m, 2), (bellsValid m, 2), (figuresValid m, 2),
    (m.paths.all pathValid, 3), ((m.entries.head?.map (·.valid)) == some true, 4)]

/-- The checks after them. -/
def lateChecks (m : Image) : List (Bool × Nat) :=
  [(m.slots.all (·.isSome), 4), (within 1 127 (m.field 7), 2),
    (within 0 3 (m.field 8) && within 0 3 (m.field 9), 2)]

/-- The detail of the first check that fails. -/
def firstFailure (l : List (Bool × Nat)) : Option Nat := (l.find? fun x => !x.1).map (·.2)

/-- The invalid calendar entries past entry 0. -/
def badEntries (m : Image) : List Nat :=
  (List.range m.entries.length).filter fun i => i != 0 && ((m.entries[i]?).map (·.valid)) == some false

/-! ## Acceptance (R162, R163; and R15, R47, R75, R133, R140, R142) -/

/-- A table numbered from 1 as a list whose entry 0 is never named. -/
def tableOf {α : Type} (size : Nat) (none' : α) (l : List (Nat × α)) : List α :=
  (List.range size).map fun n => ((l.find? fun x => x.1 == n).map (·.2)).getD none'

/-- The late tolerance in ms. -/
def toleranceOf (n : Nat) : Nat := if n = 0xFF then 30 else n

/-- The gate limit in s. -/
def gateLimitOf (n : Nat) : Nat := if n = 0 then 15 else n

/-- The receiver starts, its idle time at 0, if it is not on already (R146, R159). -/
def startReceiver (s : State) : State :=
  if s.bus.rxOn then s else s.modBus fun b => { b with rxOn := true, idleFrom := s.now }

/-- BEL and FIG take their tables. -/
def acceptPlay (m : Image) (s : State) : State :=
  (s.modBel fun b =>
    { b with
      bells := tableOf 13 none (m.bells.map fun x => (x.1, some x.2)), k := m.field 6
      tolerance := toleranceOf (m.field 5), hourBell := orNone (m.field 13) }).modFig fun g =>
    { g with figs := tableOf 7 none (m.figures.map fun x => (x.1, some x.2)), paths := m.paths }

/-- CHR takes its tables; every filter begins to form, the rail counts start again (R140 to R142). -/
def acceptChannels (m : Image) (s : State) : State :=
  s.modChr fun c =>
    { c with
      channels := ⟨.off, .bar⟩ :: m.channels.map (·.getD ⟨.off, .bar⟩)
      sensorTab := .off :: m.sensors.map (·.getD .off)
      sensors := c.sensors.mapIdx fun n r =>
        { r with filtered := none,
                 timer := (filterUs ((.off :: m.sensors.map (·.getD .off)).getD n .off)).map (s.now + ·) }
      warn := m.field 8, cut := m.field 9, cntDown := 0, cntAlt := 0 }

/-- SCK takes its tables, the TIME period timer starts (R11, R15). A clock that has reached the end of 2099, its
MINUTE_BOUNDARY still waiting, passes it first (R1). -/
def acceptClock (m : Image) (s : State) : State :=
  let s1 := wrapCentury s
  recomputeLevel (matchCalendar (s1.modSck fun k =>
    { k with
      calendar := m.entries, slots := m.slots.filterMap id, quietCeiling := m.field 7
      minuteDone := minuteNo s1, timeTimer := some (s.now + Config.timePeriodUs) }))

/-- The settings of GTU, CSQ, BIF and FLT. -/
def acceptSettings (m : Image) (s : State) : State :=
  (((s.modGtu fun u => { u with limit := gateLimitOf (m.field 4) }).modCsq fun c =>
    { c with directory := m.dir }).modBus fun b =>
    { b with fast := m.field 2 == 1, rotating := m.field 3 == 1 }).modFlt fun f =>
    { f with
      maskAdvisory := (m.config.getD 11 0).getLsbD 0, maskDegraded := (m.config.getD 11 0).getLsbD 1
      pinOnDegraded := m.field 12 == 1, serviceSet := m.config.getD 10 0 }

/-- R162, R163: the configuration is accepted and the station enters LISTENING. -/
def accept (m : Image) (s : State) : State :=
  (acceptClock m (acceptChannels m (acceptPlay m (acceptSettings m (startReceiver s))))).modIml fun i =>
    { i with
      station := .listening, number := some (m.field 0), role := m.config.getD 1 0, load := none
      accepted := true, listen := some (s.now + Config.listenUs) }

/-! ## Stopping at start (R161, R162) -/

/-- R162: the bit rate and the own number of a station stopped at start, from a configuration block that
read good and whose bit rate code is valid. A service restart whose reload fails takes this rate too, not the one
that R165 keeps until a reload is accepted (DEDUCED, log entry 16). -/
def startLine (config : List Byte) (s : State) : State :=
  if config ≠ [] ∧ byteAt config 2 ≤ 1 then
    (s.modBus fun b => { b with fast := byteAt config 2 == 1 }).modIml fun i =>
      { i with number := some (byteAt config 0) }
  else (s.modBus fun b => { b with fast := false }).modIml fun i => { i with number := none }

/-- R161, R162, R172: a STOP fault at load. -/
def stopAtStart (code : FaultCode) (detail : Nat) (config : List Byte) (s : State) : State :=
  stopMuted code detail
    (startReceiver (startLine config (s.modIml fun i => { i with load := none })))

/-- R162: the checks of the tables, and acceptance or CONFIG_BAD. -/
def finishLoad (m : Image) (s : State) : State :=
  match firstFailure (earlyChecks m) with
  | some d => stopAtStart .configBad d m.config s
  | none =>
    let s1 := (badEntries m).foldl (fun s i => raiseFault .calendarEntryBad i s) s
    match firstFailure (lateChecks m) with
    | some d => stopAtStart .configBad d m.config s1
    | none => accept m s1

/-! ## Reads (R161) -/

/-- The read of an area begins. -/
def startRead (area attempt : Nat) (l : LoadRec) (now : Nat) : LoadRec :=
  { l with area := area, attempt := attempt, started := some now, reread := none }

/-- R167: the load at its beginning. -/
def firstLoad (now : Nat) : LoadRec := ⟨1, 1, some now, none, [], [], []⟩

/-- A good read kept, and the next area read, or the tables checked. -/
def areaGood (l : LoadRec) (d : List Byte) (s : State) : State :=
  let go (l' : LoadRec) : State :=
    s.modIml fun i => { i with load := some (startRead (l.area + 1) 1 l' s.now) }
  match l.area with
  | 1 =>
    s.modIml fun i =>
      { i with header := some (parseImgHeader d), load := some (startRead 2 1 l s.now) }
  | 2 => go { l with config := d }
  | 3 => go { l with path := d }
  | 4 => go { l with calendar := d }
  | _ => finishLoad ⟨l.config, l.path, l.calendar, d⟩ s

/-- R161: a read that is not good: the reread timer starts, or the second result decides. -/
def areaBad (l : LoadRec) (silent : Bool) (s : State) : State :=
  if l.attempt = 1 then
    s.modIml fun i =>
      { i with load := some { l with started := none, reread := some (s.now + Config.rereadUs) } }
  else
    stopAtStart (if silent then .imageUnreadable else .configBad) l.area l.config s

/-- R161: the read of an area ends (log entry 41). -/
def imageRead (data : List Byte) (s : State) : State :=
  match s.iml.load with
  | some l =>
    let a := loadArea s l.area
    match l.started with
    | some t0 =>
      if t0 + portTime a.len ≤ s.now then
        let d := readBytes a.len data
        if noAnswer d then areaBad l true s
        else if areaValid l.area d then areaGood l d s
        else areaBad l false s
      else s
    | none => s
  | none => s

/-- R161: the reread timer expires. -/
def rereadExpires (s : State) : State :=
  match s.iml.load with
  | some l =>
    if expired l.reread s.now then
      s.modIml fun i => { i with load := some (startRead l.area 2 l s.now) }
    else s
  | none => s

/-! ## Entry to IN_SERVICE (R164) -/

/-- R164: the station enters IN_SERVICE. -/
def enterService (s : State) : State :=
  let s1 := queueHello (s.modIml fun i =>
    { i with station := .inService, listen := none, helloPending := true })
  (figNumbers s1).foldl (fun s f => beginHoming f s) s1

/-! ## Resets (R16, R38, R39, R73, R96, R117, R132, R145, R159, R167, R177) -/

/-- The state after a full reset at the present moment, the reset pin still low. The pins keep their
levels; what waits goes on waiting. -/
def fullResetState (s : State) : State :=
  { State.reset with
    now := s.now, pending := s.pending
    chr := { Chr.reset with sensors := s.chr.sensors.map fun r => ⟨r.pin, none, none⟩ } }

/-- R167, R86, R1: the reset ends: the first read, the clock and the heat period timer begin. -/
def releaseReset (s : State) : State :=
  { s with
    inReset := false
    iml := { s.iml with load := some (firstLoad s.now) }
    sck := { s.sck with clkAt := s.now }
    bel := { s.bel with heatTimer := some (s.now + Config.heatUs) } }

/-- R165: the restart's WITHDRAW has left the queue, or none was waited for. -/
def restartDue (s : State) : Bool :=
  match s.iml.restart with
  | .none => false
  | .due => true
  | .awaiting id => !(s.bus.queue.any fun f => f.id == id)

/-- R16: the Station Clock at a service restart. -/
def Sck.restarted (k : Sck) : Sck :=
  { k with
    calendar := [], entry := none, level := .closed, quiet := none, quietCeiling := 0, slots := []
    timeTimer := none }

/-- R145: the Channel and Rail Unit at a service restart. R145 does not list the last measurement; it is
kept (DESIGN CHOICE, log entry 24). -/
def Chr.restarted (c : Chr) : Chr :=
  { Chr.reset with
    sensors := c.sensors.map fun r => ⟨r.pin, none, none⟩
    pwmStart := c.pwmStart, lampStart := c.lampStart, lastMeas := c.lastMeas }

/-- R159: the Bus Interface at a service restart, its transmitter as its queue is emptied. -/
def Bus.restarted (b : Bus) (tx : TxState) : Bus :=
  { b with
    assembly := [], tx := tx, current := none, fails := 0, queue := [], pointer := .routine
    peers := List.replicate 31 .unknown, dup := false }

/-- R167: the Image Loader at a service restart; the own number is kept until the reload (log entry
16). -/
def Iml.restarted (i : Iml) (now : Nat) : Iml :=
  { Iml.reset with number := i.number, role := i.role, load := some (firstLoad now) }

/-- R165: the service restart begins. The segment and the anchors of the beat clock, for which R73 gives
no value, take those of a full reset (DESIGN CHOICE, log entry 24). -/
def restartBegins (s : State) : State :=
  { s with
    iml := s.iml.restarted s.now, sck := s.sck.restarted, she := She.reset
    gtu := { s.gtu with gate := none }, csq := Csq.reset
    bel := { Bel.reset with heatTimer := s.bel.heatTimer }, fig := Fig.reset, zon := Zon.reset
    chr := s.chr.restarted, bus := s.bus.restarted (txStopped s) }

end Sys2Proof.Machine
end

