-- ==== Sys2Proof/Machine/Service.lean ====
section
/-! DEFINITION. Service requests (R173, R174), the pages of STATUS (R175; 12_formats, Table 8), and the
handing of other frames heard to their owners (R149). -/

namespace Sys2Proof.Machine

/-! ## STATUS pages (R175, Table 8) -/

/-- Station state byte, 80h added when muted. -/
def stationByte (s : State) : Nat :=
  (match s.iml.station with
    | .starting => 0
    | .listening => 1
    | .inService => 2
    | .stopped => 3) + (if s.iml.muted then 0x80 else 0)

/-- Show Engine state byte, in the order of the state table of chapter 2. -/
def engineByte : Engine → Nat
  | .idle => 0 | .callWait => 1 | .calling => 2 | .answered => 3
  | .arming => 4 | .gateWait => 5 | .running => 6 | .settling => 7

/-- Rail state byte. -/
def railByte : RailState → Nat
  | .normal => 0 | .sag => 1 | .cut => 2

/-- A set of figures as a byte, bit f for figure f. -/
def figureSetByte (l : List Nat) : Nat := (Bits.ofList 8 l).toNat

/-- A byte for each number. -/
def bytesOf (l : List Nat) : List Byte := l.map (BitVec.ofNat 8)

/-- Page 0. -/
def summaryPage (s : State) : List Byte :=
  bytesOf [stationByte s, engineByte s.she.engine]
    ++ leBytes 2 ((s.she.showRec.map (·.slot)).getD 0xFFFF)
    ++ bytesOf [(s.she.showRec.map (·.prog)).getD 0xFF, s.sck.grade, levelByte s.sck.level,
        railByte s.chr.rail, figureSetByte (jammedFigures s), figureSetByte (figsIn s .failed),
        (badProgrammes s).head?.getD 0xFF, s.flt.list.length, peersPresent s, if faultPin s then 1 else 0]

/-- Page 1. -/
def countersPage1 (s : State) : List Byte :=
  bytesOf ([s.bus.rxBroken, s.bus.rxCheck, s.bus.txCollision, s.flt.suppressed, s.flt.moveSkipped,
    s.gtu.stray] ++ s.flt.counters.take 8)

/-- Page 2. -/
def countersPage2 (s : State) : List Byte := bytesOf (s.flt.counters.drop 8)

/-- Pages 3 to 10: a fault record, all bytes 0 when it is absent. -/
def recordPage : Option FaultRec → List Byte
  | none => bytesOf [0, 0, 0, 0, 0, 0, 0]
  | some r =>
    bytesOf [faultByte r.code, classByte (faultClass r.code)] ++ leBytes 2 r.day ++ leBytes 2 r.minute
      ++ bytesOf [r.detail]

/-- The contents of a page, 0 to 10. -/
def pageContents (s : State) (page : Nat) : List Byte :=
  match page with
  | 0 => summaryPage s
  | 1 => countersPage1 s
  | 2 => countersPage2 s
  | n => recordPage s.flt.list[n - 3]?

/-- R174, R175: an accepted STATUS_QUERY. -/
def answerQuery (page : Nat) (s : State) : State :=
  if page ≤ 10 ∧ maySend s then queueStatus page (pageContents s page) s else s

/-! ## The access check (R173) -/

/-- R173, steps 3 and 4. -/
def withAccess (src : Byte) (owner : State → State) (s : State) : State :=
  if inServiceSet s src.toNat then owner s else raiseFault .serviceDenied src.toNat s

/-- R173, steps 2 to 4, for a request whose target set is carried. -/
def forTargets (src : Byte) (targets : Set32) (owner : State → State) (s : State) : State :=
  if Bits.mem targets (ownNo s) then withAccess src owner s else s

/-- R14, R173: a SET_TIME. -/
def serveSetTime (src : Byte) (x : Nat × Nat) (s : State) : State :=
  withAccess src (takeSetTime x.1 x.2) s

/-- R20, R173: a PLAY_NOW: a slot moment for slot 2047 that carries the programme. -/
def servePlayNow (src : Byte) (x : Set32 × Nat) (s : State) : State :=
  forTargets src x.1 (slotMoment Config.serviceSlot none (dayNo s) (some x.2)) s

/-- R6, R173: a QUIET_UNTIL. -/
def serveQuiet (src : Byte) (x : Set32 × Nat) (s : State) : State :=
  forTargets src x.1 (takeQuiet x.2) s

/-- R173, R175: a STATUS_QUERY, which carries one target. -/
def serveQuery (src : Byte) (x : Nat × Nat) (s : State) : State :=
  if s.iml.number = some x.1 then withAccess src (answerQuery x.2) s else s

/-- R165, R173: a RESTART. -/
def serveRestart (src : Byte) (targets : Set32) (s : State) : State :=
  forTargets src targets acceptRestart s

/-! ## CLAIM frames by their flag (R123, R126, R178) -/

/-- A CLAIM frame with the reassert flag clear; with it set the command is another. -/
def serveClaim (src : Byte) (x : Bool × ZoneSet) (s : State) : State :=
  if x.1 then s else takeClaim src.toNat x.2 s

/-- A CLAIM frame with the reassert flag set. -/
def serveReassert (src : Byte) (x : Bool × ZoneSet) (s : State) : State :=
  if x.1 then takeReassertFrame src.toNat x.2 s else s

end Sys2Proof.Machine
end

