-- ==== Sys2Proof/Machine/Bells.lean ====
section
/-! DEFINITION. Meanings: bells (chapter 5). -/

namespace Sys2Proof.Machine

/-- STRIKE_DUE (R80, R81). -/
def execStrikeDue (t : Nat) (s : State) : Host.Outcome State Fault Refusal := event t strikesDue s

/-- LATE_DEADLINE (R82). -/
def execLateDeadline (t : Nat) (s : State) : Host.Outcome State Fault Refusal := event t dropLate s

/-- R76: the pulse of a bell has run out; the slot it frees goes to the arbiter (R81). -/
def pulseOut (b : Nat) (s : State) : State :=
  match (bellRun s b).hammer with
  | .pulsing e => if e ≤ s.now then runArbiter (endPulse b s) else s
  | .idle | .recovering _ => s

/-- PULSE_END (R76, R81, R88). -/
def execPulseEnd (t bell : Nat) (s : State) : Host.Outcome State Fault Refusal := event t (pulseOut bell) s

/-- R76: the recovery of a bell's hammer has run out. -/
def recoveryOut (b : Nat) (s : State) : State :=
  match (bellRun s b).hammer with
  | .recovering e => if e ≤ s.now then runArbiter (modBellRun b (fun r => { r with hammer := .idle }) s) else s
  | .idle | .pulsing _ => s

/-- RECOVERY_END (R76, R81). -/
def execRecoveryEnd (t bell : Nat) (s : State) : Host.Outcome State Fault Refusal :=
  event t (recoveryOut bell) s

/-- R86: the heat period timer expires. -/
def heatOut (s : State) : State :=
  match s.bel.heatTimer with
  | some d =>
    if d ≤ s.now then
      (bellNumbers s).foldl coolBell (s.modBel fun b => { b with heatTimer := some (d + Config.heatUs) })
    else s
  | none => s

/-- HEAT_PERIOD_EXPIRY (R86). -/
def execHeatPeriodExpiry (t : Nat) (s : State) : Host.Outcome State Fault Refusal := event t heatOut s

/-- R88: the drop moment of a bell's damper has come. -/
def damperOut (b : Nat) (s : State) : State :=
  match (bellRun s b).damper with
  | .up d => if d ≤ s.now then modBellRun b (fun r => { r with damper := .down }) s else s
  | .down | .upHeld => s

/-- DAMPER_DROP (R88). -/
def execDamperDrop (t bell : Nat) (s : State) : Host.Outcome State Fault Refusal :=
  event t (damperOut bell) s

end Sys2Proof.Machine
end

