-- ==== Sys2Proof/Machine/Cues.lean ====
section
/-! DEFINITION. Meanings: reads of the cue memory and the beat clock's events (chapter 4). -/

namespace Sys2Proof.Machine

/-- R59: the header read at the head of the port queue ends. -/
def headerReadEnds (data : List Byte) (s : State) : State :=
  match s.csq.port with
  | [] => s
  | r :: _ => if r.use = .header ∧ readOver s r then headerRead r data s else s

/-- HEADER_READ_DONE (R55, R59). -/
def execHeaderReadDone (t : Nat) (data : List Byte) (s : State) : Host.Outcome State Fault Refusal :=
  zoneEvent t (headerReadEnds data) s

/-- R59: the block read at the head of the port queue ends. -/
def blockReadEnds (data : List Byte) (s : State) : State :=
  match s.csq.port with
  | [] => s
  | r :: _ => if r.use ≠ .header ∧ readOver s r then blockRead r data s else s

/-- BLOCK_READ_DONE (R59, R62, R63). -/
def execBlockReadDone (t : Nat) (data : List Byte) (s : State) : Host.Outcome State Fault Refusal :=
  zoneEvent t (blockReadEnds data) s

/-- CUE_DUE (R63, R67, R68). -/
def execCueDue (t : Nat) (s : State) : Host.Outcome State Fault Refusal := zoneEvent t playDue s

/-- STRIKE_DISPATCH (R63, R69). -/
def execStrikeDispatch (t : Nat) (s : State) : Host.Outcome State Fault Refusal := event t leadDue s

/-- WAKE_UP_DUE (R70, R92). -/
def execWakeUpDue (t : Nat) (s : State) : Host.Outcome State Fault Refusal := event t wakeUpsDue s

/-- PART_END (R37, R65). -/
def execPartEnd (t : Nat) (s : State) : Host.Outcome State Fault Refusal := zoneEvent t (endParts 9) s

/-- BEAT_MARK (R72, R139). -/
def execBeatMark (t : Nat) (s : State) : Host.Outcome State Fault Refusal := event t giveMark s

end Sys2Proof.Machine
end

