-- ==== Sys2Proof/Machine/Figures.lean ====
section
/-! DEFINITION. Meanings: sensors (chapter 8) and figures (chapter 6). -/

namespace Sys2Proof.Machine

/-- SENSOR_PIN_CHANGE (R140, R141). The level of a pin is the world's and is followed through a reset
too. -/
def execSensorPinChange (t sensor : Nat) (high : Bool) (s : State) : Host.Outcome State Fault Refusal :=
  .next (pinChange sensor high (s.at t))

/-- R140: the 1 ms filter of a HOME or LIMIT sensor has run out. -/
def sensorFilterOut (n : Nat) (s : State) : State :=
  match sensRec s n with
  | .home _ | .limit _ => if expired (sensRun s n).timer s.now then filterExpires n s else s
  | .off | .encoder _ => s

/-- SENSOR_FILTER_EXPIRY (R108, R112, R140). -/
def execSensorFilterExpiry (t sensor : Nat) (s : State) : Host.Outcome State Fault Refusal :=
  zoneEvent t (sensorFilterOut sensor) s

/-- R141: the 20 µs filter of an ENCODER sensor has run out. -/
def encoderFilterOut (n : Nat) (s : State) : State :=
  match sensRec s n with
  | .encoder _ => if expired (sensRun s n).timer s.now then encoderExpires n s else s
  | .off | .home _ | .limit _ => s

/-- ENCODER_FILTER_EXPIRY (R105 to R108, R141). -/
def execEncoderFilterExpiry (t sensor : Nat) (s : State) : Host.Outcome State Fault Refusal :=
  zoneEvent t (encoderFilterOut sensor) s

/-- R109: the jam timer of a figure has run out. -/
def jamOut (f : Nat) (s : State) : State :=
  if expired (figRun s f).jam s.now then jamExpires f s else s

/-- JAM_TIMER_EXPIRY (R109, R112). -/
def execJamTimerExpiry (t figure : Nat) (s : State) : Host.Outcome State Fault Refusal :=
  event t (jamOut figure) s

/-- R107: the coast timer of a figure has run out. -/
def coastOut (f : Nat) (s : State) : State :=
  if expired (figRun s f).coast s.now then modFigRun f (fun r => { r with coast := none }) s else s

/-- COAST_TIMER_EXPIRY (R107). -/
def execCoastTimerExpiry (t figure : Nat) (s : State) : Host.Outcome State Fault Refusal :=
  event t (coastOut figure) s

/-- R104: the reversal hold of a figure has run out. -/
def holdOut (f : Nat) (s : State) : State :=
  if expired (figRun s f).hold s.now then driveLeg f s else s

/-- REVERSAL_HOLD_EXPIRY (R104, R108). -/
def execReversalHoldExpiry (t figure : Nat) (s : State) : Host.Outcome State Fault Refusal :=
  event t (holdOut figure) s

/-- R112: the homing limit timer of a figure has run out. -/
def homingLimitOut (f : Nat) (s : State) : State := if limitExpired s f then failHoming f s else s

/-- HOMING_LIMIT_EXPIRY (R112). -/
def execHomingLimitExpiry (t figure : Nat) (s : State) : Host.Outcome State Fault Refusal :=
  event t (homingLimitOut figure) s

/-- R113: the jam-homing wait of a figure has run out. -/
def jamWaitOut (f : Nat) (s : State) : State := if jamWaitExpired s f then jamWaitEnds f s else s

/-- JAM_HOMING_WAIT_EXPIRY (R112, R113). -/
def execJamHomingWaitExpiry (t figure : Nat) (s : State) : Host.Outcome State Fault Refusal :=
  zoneEvent t (jamWaitOut figure) s

end Sys2Proof.Machine
end

