-- ==== Sys2Proof/Machine/Gates.lean ====
section
/-! DEFINITION. Meanings: gates (chapter 3). -/

namespace Sys2Proof.Machine

/-- R40: the lead-in timer has run out. -/
def leadInOut (s : State) : State :=
  match s.gtu.gate with
  | some g => if expired g.leadIn s.now then gateCheck (modGate (fun g => { g with leadIn := none }) s) else s
  | none => s

/-- LEAD_IN_EXPIRY (R40). -/
def execLeadInExpiry (t : Nat) (s : State) : Host.Outcome State Fault Refusal := event t leadInOut s

/-- READY (R44, R45, R47). -/
def execReady (t : Nat) (src : Byte) (payload : List Byte) (s : State) :
    Host.Outcome State Fault Refusal :=
  event t (hear src false
    (withLayout (parseReady payload) (fun x => takeReady src.toNat x.1 x.2))) s

/-- R48: the gate timer has run out in phase READY. -/
def gateTimerOut (s : State) : State :=
  match s.gtu.gate with
  | some g => if g.phase = .ready ∧ expired g.timer s.now then gateTimerExpires g s else s
  | none => s

/-- GATE_TIMER_EXPIRY (R48). -/
def execGateTimerExpiry (t : Nat) (s : State) : Host.Outcome State Fault Refusal :=
  event t gateTimerOut s

/-- GO (R49, R50). -/
def execGo (t : Nat) (src : Byte) (payload : List Byte) (s : State) :
    Host.Outcome State Fault Refusal :=
  zoneEvent t (hear src false (withLayout (parseGo payload) (takeGo src.toNat))) s

/-- R46: the settle timer has run out in phase RELEASED. -/
def settleOut (s : State) : State :=
  match s.gtu.gate with
  | some g => if g.phase = .released ∧ expired g.settle s.now then settleExpires s else s
  | none => s

/-- SETTLE_TIMER_EXPIRY (R46, R67). -/
def execSettleTimerExpiry (t : Nat) (s : State) : Host.Outcome State Fault Refusal :=
  zoneEvent t settleOut s

end Sys2Proof.Machine
end

