-- ==== Sys2Proof/Machine/Line.lean ====
section
/-! DEFINITION. Meanings: characters and broken frames received, attempts and their ends, frames queued
again (chapter 9). -/

namespace Sys2Proof.Machine

/-- FRAME_BROKEN (R146, R148). -/
def execFrameBroken (t : Nat) (cause : BreakCause) (s : State) : Host.Outcome State Fault Refusal :=
  event t (breakFrame cause) s

/-- FRAME_CHECK_FAIL (R148). -/
def execFrameCheckFail (t : Nat) (s : State) : Host.Outcome State Fault Refusal :=
  event t checkFails s

/-- CHARACTER_RECEIVED (R146, R148). -/
def execCharacterReceived (t : Nat) (data : Byte) (mark : Bool) (s : State) :
    Host.Outcome State Fault Refusal :=
  event t (takeCharacter data mark) s

/-- ATTEMPT_START (R151, R154). -/
def execAttemptStart (t : Nat) (s : State) : Host.Outcome State Fault Refusal :=
  event t attemptStarts s

/-- COLLISION (R152, R153). -/
def execCollision (t : Nat) (s : State) : Host.Outcome State Fault Refusal := event t collide s

/-- BREAK_END (R152). -/
def execBreakEnd (t : Nat) (s : State) : Host.Outcome State Fault Refusal := event t breakEnds s

/-- FRAME_SENT (R152, and the owners' readbacks). -/
def execFrameSent (t : Nat) (s : State) : Host.Outcome State Fault Refusal := zoneEvent t frameIsSent s

/-- READY_REQUEUE (R43). -/
def execReadyRequeue (t : Nat) (s : State) : Host.Outcome State Fault Refusal := event t requeueReady s

/-- RELEASE_REQUEUE (R128). -/
def execReleaseRequeue (t : Nat) (s : State) : Host.Outcome State Fault Refusal :=
  event t requeueReleases s

/-- HELLO_REQUEUE (R164). -/
def execHelloRequeue (t : Nat) (s : State) : Host.Outcome State Fault Refusal := event t requeueHello s

end Sys2Proof.Machine
end

