-- ==== Sys2Proof/Machine/Outputs.lean ====
section
/-! DEFINITION. Meanings: the supply rail and the outputs' periods (chapter 8). -/

namespace Sys2Proof.Machine

/-- RAIL_MEASUREMENT (R142 to R144). -/
def execRailMeasurement (t decivolts : Nat) (s : State) : Host.Outcome State Fault Refusal :=
  event t (measureRail decivolts) s

/-- R137: a lamp period begins: every level is worked afresh. -/
def lampPeriodBegins (s : State) : State :=
  (workLamps s).modChr fun c => { c with lampStart := s.now }

/-- LAMP_PERIOD (R137). -/
def execLampPeriod (t : Nat) (s : State) : Host.Outcome State Fault Refusal := event t lampPeriodBegins s

/-- PWM_PERIOD (R136). -/
def execPwmPeriod (t : Nat) (s : State) : Host.Outcome State Fault Refusal :=
  event t (fun s => s.modChr fun c => { c with pwmStart := s.now }) s

/-- R139: the strobe's pulse has run its width. -/
def strobeOut (s : State) : State := if expired s.chr.strobeEnd s.now then strobeLow s else s

/-- STROBE_PULSE_END (R139). -/
def execStrobePulseEnd (t : Nat) (s : State) : Host.Outcome State Fault Refusal := event t strobeOut s

end Sys2Proof.Machine
end

