-- ==== Sys2Proof/Machine/Requests.lean ====
section
/-! DEFINITION. Meanings: the other service requests (chapter 11) and the frames that no show owner
takes (R149). -/

namespace Sys2Proof.Machine

/-- PLAY_NOW (R20, R173, R174). -/
def execPlayNow (t : Nat) (src : Byte) (payload : List Byte) (s : State) :
    Host.Outcome State Fault Refusal :=
  event t (hear src false (withLayout (parsePlayNow payload) (servePlayNow src))) s

/-- QUIET_UNTIL (R6, R173, R174). -/
def execQuietUntil (t : Nat) (src : Byte) (payload : List Byte) (s : State) :
    Host.Outcome State Fault Refusal :=
  event t (hear src false (withLayout (parseQuietUntil payload) (serveQuiet src))) s

/-- STATUS_QUERY (R173 to R175). -/
def execStatusQuery (t : Nat) (src : Byte) (payload : List Byte) (s : State) :
    Host.Outcome State Fault Refusal :=
  event t (hear src false (withLayout (parseStatusQuery payload) (serveQuery src))) s

/-- RESTART (R165, R173, R174). -/
def execRestart (t : Nat) (src : Byte) (payload : List Byte) (s : State) :
    Host.Outcome State Fault Refusal :=
  zoneEvent t (hear src false (withLayout (parseRestart payload) (serveRestart src))) s

/-- HELLO (R11, R36, R130, R149). -/
def execHello (t : Nat) (src : Byte) (payload : List Byte) (s : State) :
    Host.Outcome State Fault Refusal :=
  zoneEvent t (hear src false (withLayout (parseHello payload) (fun _ => takeHello src.toNat))) s

/-- FAULT (R149): no owner beyond the peer table. -/
def execFault (t : Nat) (src : Byte) (_payload : List Byte) (s : State) :
    Host.Outcome State Fault Refusal :=
  event t (hear src false id) s

/-- STATUS (R149): no owner beyond the peer table. -/
def execStatus (t : Nat) (src : Byte) (_payload : List Byte) (s : State) :
    Host.Outcome State Fault Refusal :=
  event t (hear src false id) s

/-- UNKNOWN_KIND_FRAME (R149): the peer table only. -/
def execUnknownKindFrame (t : Nat) (_kind src : Byte) (_payload : List Byte) (s : State) :
    Host.Outcome State Fault Refusal :=
  event t (hear src false id) s

end Sys2Proof.Machine
end

