-- ==== Sys2Proof/Machine/Start.lean ====
section
/-! DEFINITION. Meanings: resets, loading, entry to service, restart (chapter 10). -/

namespace Sys2Proof.Machine

/-- FULL_RESET (R16, R167 and every chapter's reset table): in any state, at once. -/
def execFullReset (t : Nat) (s : State) : Host.Outcome State Fault Refusal :=
  .next (fullResetState (s.at t))

/-- RESET_RELEASE (R161, R167): the pin rises and the first read begins. -/
def execResetRelease (t : Nat) (s : State) : Host.Outcome State Fault Refusal :=
  .next (if s.inReset then releaseReset (s.at t) else s.at t)

/-- IMAGE_READ_DONE (R161, R162). -/
def execImageReadDone (t : Nat) (data : List Byte) (s : State) : Host.Outcome State Fault Refusal :=
  event t (imageRead data) s

/-- REREAD_TIMER_EXPIRY (R161). -/
def execRereadTimerExpiry (t : Nat) (s : State) : Host.Outcome State Fault Refusal :=
  event t rereadExpires s

/-- R163: the listen timer has run out in LISTENING. -/
def listenOver (s : State) : Bool := s.iml.station == .listening && expired s.iml.listen s.now

/-- LISTEN_TIMER_EXPIRY (R163, R164). -/
def execListenTimerExpiry (t : Nat) (s : State) : Host.Outcome State Fault Refusal :=
  zoneEvent t (fun s => if listenOver s then enterService s else s) s

/-- RESTART_MOMENT (R165). -/
def execRestartMoment (t : Nat) (s : State) : Host.Outcome State Fault Refusal :=
  event t (fun s => if restartDue s then restartBegins s else s) s

end Sys2Proof.Machine
end

