-- ==== Sys2Proof/Machine/Talk.lean ====
section
/-! DEFINITION. Meanings: the negotiation of a programme (chapter 2). -/

namespace Sys2Proof.Machine

/-- R21: the call delay has run out in CALL_WAIT. -/
def callDelayOut (s : State) : State :=
  match s.she.pend with
  | some p => if s.she.engine = .callWait ∧ expired p.delay s.now then callDelayExpires p s else s
  | none => s

/-- CALL_DELAY_EXPIRY (R21). -/
def execCallDelayExpiry (t : Nat) (s : State) : Host.Outcome State Fault Refusal :=
  event t callDelayOut s

/-- CALL (R22 to R26). -/
def execCall (t : Nat) (src : Byte) (payload : List Byte) (s : State) :
    Host.Outcome State Fault Refusal :=
  event t (hear src false (withLayout (parseCall payload) (takeCall src.toNat))) s

/-- MENU (R27). -/
def execMenu (t : Nat) (src : Byte) (payload : List Byte) (s : State) :
    Host.Outcome State Fault Refusal :=
  event t (hear src false (withLayout (parseMenu payload) (takeMenu src.toNat))) s

/-- R28: the gather window has run out in CALLING. -/
def windowOut (s : State) : State :=
  match s.she.pend, s.she.gather with
  | some p, some g =>
    if s.she.engine = .calling ∧ expired g.window s.now then windowExpires p g s else s
  | _, _ => s

/-- WINDOW_TIMER_EXPIRY (R28, R29). -/
def execWindowTimerExpiry (t : Nat) (s : State) : Host.Outcome State Fault Refusal :=
  event t windowOut s

/-- R24: the AGREE wait has run out in ANSWERED. -/
def agreeWaitOut (s : State) : State :=
  match s.she.answer with
  | some a => if s.she.engine = .answered ∧ expired a.wait s.now then agreeWaitExpires a s else s
  | none => s

/-- AGREE_WAIT_EXPIRY (R24). -/
def execAgreeWaitExpiry (t : Nat) (s : State) : Host.Outcome State Fault Refusal :=
  event t agreeWaitOut s

/-- AGREE (R31, R32). -/
def execAgree (t : Nat) (src : Byte) (payload : List Byte) (s : State) :
    Host.Outcome State Fault Refusal :=
  event t (hear src false (withLayout (parseAgree payload) (takeAgree src.toNat))) s

/-- WITHDRAW (R35). -/
def execWithdraw (t : Nat) (src : Byte) (payload : List Byte) (s : State) :
    Host.Outcome State Fault Refusal :=
  event t (hear src false (withLayout (parseWithdraw payload) (takeWithdraw src.toNat))) s

/-- SETTLING_DONE (R37, R113). -/
def execSettlingDone (t : Nat) (s : State) : Host.Outcome State Fault Refusal :=
  event t (fun s => if settled s then enterIdle s else s) s

end Sys2Proof.Machine
end

