-- ==== Sys2Proof/Machine/Time.lean ====
section
/-! DEFINITION. Meanings: minute boundaries, slew, grade, TIME (chapter 1). -/

namespace Sys2Proof.Machine

/-- MINUTE_BOUNDARY (R1, R4 to R6, R9). -/
def execMinuteBoundary (t : Nat) (s : State) : Host.Outcome State Fault Refusal :=
  event t crossMinute s

/-- R12: the slew period timer expires; the jump of the reading may cross a minute boundary. -/
def slewExpires (s : State) : State :=
  match s.sck.slewTimer with
  | some d => if d ≤ s.now then crossMinute (slewPeriod d s) else s
  | none => s

/-- SLEW_PERIOD_EXPIRY (R12). -/
def execSlewPeriodExpiry (t : Nat) (s : State) : Host.Outcome State Fault Refusal :=
  event t slewExpires s

/-- R2: the age timer has run out. -/
def ageTimerOut (s : State) : State :=
  match s.sck.ageTimer with
  | some d => if d ≤ s.now then ageExpires d s else s
  | none => s

/-- AGE_TIMER_EXPIRY (R2). -/
def execAgeTimerExpiry (t : Nat) (s : State) : Host.Outcome State Fault Refusal :=
  event t ageTimerOut s

/-- R11: the TIME period timer has run out. -/
def timeTimerOut (s : State) : State :=
  match s.sck.timeTimer with
  | some d => if d ≤ s.now then timePeriodExpires d s else s
  | none => s

/-- TIME_PERIOD_EXPIRY (R11). -/
def execTimePeriodExpiry (t : Nat) (s : State) : Host.Outcome State Fault Refusal :=
  event t timeTimerOut s

/-- TIME (R12, R13). -/
def execTime (t : Nat) (src : Byte) (payload : List Byte) (s : State) :
    Host.Outcome State Fault Refusal :=
  event t (hear src true (withLayout (parseTime payload) (takeTime src.toNat))) s

/-- SET_TIME (R14, R173). -/
def execSetTime (t : Nat) (src : Byte) (payload : List Byte) (s : State) :
    Host.Outcome State Fault Refusal :=
  event t (hear src false (withLayout (parseSetTime payload) (serveSetTime src))) s

end Sys2Proof.Machine
end

