-- ==== Sys2Proof/Machine/Zones.lean ====
section
/-! DEFINITION. Meanings: shared zones (chapter 7) and a peer's silence (R158). -/

namespace Sys2Proof.Machine

/-- OWN_CLAIM_WINDOW_END (R122). -/
def execOwnClaimWindowEnd (t : Nat) (s : State) : Host.Outcome State Fault Refusal :=
  zoneEvent t ownWindowsEnd s

/-- PEER_CLAIM_WINDOW_END (R124). -/
def execPeerClaimWindowEnd (t : Nat) (s : State) : Host.Outcome State Fault Refusal :=
  event t peerWindowsEnd s

/-- CLAIM (R123). -/
def execClaim (t : Nat) (src : Byte) (payload : List Byte) (s : State) :
    Host.Outcome State Fault Refusal :=
  zoneEvent t (hear src false (withLayout (parseClaim payload) (serveClaim src))) s

/-- REASSERT (R126, R127). -/
def execReassert (t : Nat) (src : Byte) (payload : List Byte) (s : State) :
    Host.Outcome State Fault Refusal :=
  zoneEvent t (hear src false (withLayout (parseClaim payload) (serveReassert src))) s

/-- RELEASE (R129). -/
def execRelease (t : Nat) (src : Byte) (payload : List Byte) (s : State) :
    Host.Outcome State Fault Refusal :=
  zoneEvent t (hear src false (withLayout (parseRelease payload) (takeRelease src.toNat))) s

/-- CLAIM_RETRY_TRIAL (R121). -/
def execClaimRetryTrial (t : Nat) (s : State) : Host.Outcome State Fault Refusal :=
  zoneEvent t retryClaim s

/-- SILENCE_TIMER_EXPIRY (R36, R130, R158). -/
def execSilenceTimerExpiry (t station : Nat) (s : State) : Host.Outcome State Fault Refusal :=
  zoneEvent t (fun s => if silenceDue s station then silenceExpires station s else s) s

end Sys2Proof.Machine
end

