-- ==== Sys2Proof/Machine/Dispatch.lean ====
section
/-! DEFINITION. What each command does: one arm for each row of the table. -/

namespace Sys2Proof.Machine

/-- A command's effect on everything but the queue. -/
def exec (i : Instr) (s : State) : Host.Outcome State Fault Refusal :=
  match i with
  | .fullReset t => Sys2Proof.Machine.execFullReset t s
  | .resetRelease t => Sys2Proof.Machine.execResetRelease t s
  | .imageReadDone t data => Sys2Proof.Machine.execImageReadDone t data s
  | .rereadTimerExpiry t => Sys2Proof.Machine.execRereadTimerExpiry t s
  | .listenTimerExpiry t => Sys2Proof.Machine.execListenTimerExpiry t s
  | .restartMoment t => Sys2Proof.Machine.execRestartMoment t s
  | .minuteBoundary t => Sys2Proof.Machine.execMinuteBoundary t s
  | .slewPeriodExpiry t => Sys2Proof.Machine.execSlewPeriodExpiry t s
  | .ageTimerExpiry t => Sys2Proof.Machine.execAgeTimerExpiry t s
  | .timePeriodExpiry t => Sys2Proof.Machine.execTimePeriodExpiry t s
  | .time t src payload => Sys2Proof.Machine.execTime t src payload s
  | .setTime t src payload => Sys2Proof.Machine.execSetTime t src payload s
  | .playNow t src payload => Sys2Proof.Machine.execPlayNow t src payload s
  | .quietUntil t src payload => Sys2Proof.Machine.execQuietUntil t src payload s
  | .statusQuery t src payload => Sys2Proof.Machine.execStatusQuery t src payload s
  | .restart t src payload => Sys2Proof.Machine.execRestart t src payload s
  | .hello t src payload => Sys2Proof.Machine.execHello t src payload s
  | .fault t src payload => Sys2Proof.Machine.execFault t src payload s
  | .status t src payload => Sys2Proof.Machine.execStatus t src payload s
  | .unknownKindFrame t kind src payload => Sys2Proof.Machine.execUnknownKindFrame t kind src payload s
  | .frameBroken t cause => Sys2Proof.Machine.execFrameBroken t cause s
  | .frameCheckFail t => Sys2Proof.Machine.execFrameCheckFail t s
  | .callDelayExpiry t => Sys2Proof.Machine.execCallDelayExpiry t s
  | .call t src payload => Sys2Proof.Machine.execCall t src payload s
  | .menu t src payload => Sys2Proof.Machine.execMenu t src payload s
  | .windowTimerExpiry t => Sys2Proof.Machine.execWindowTimerExpiry t s
  | .agreeWaitExpiry t => Sys2Proof.Machine.execAgreeWaitExpiry t s
  | .agree t src payload => Sys2Proof.Machine.execAgree t src payload s
  | .withdraw t src payload => Sys2Proof.Machine.execWithdraw t src payload s
  | .leadInExpiry t => Sys2Proof.Machine.execLeadInExpiry t s
  | .ready t src payload => Sys2Proof.Machine.execReady t src payload s
  | .gateTimerExpiry t => Sys2Proof.Machine.execGateTimerExpiry t s
  | .go t src payload => Sys2Proof.Machine.execGo t src payload s
  | .settleTimerExpiry t => Sys2Proof.Machine.execSettleTimerExpiry t s
  | .headerReadDone t data => Sys2Proof.Machine.execHeaderReadDone t data s
  | .blockReadDone t data => Sys2Proof.Machine.execBlockReadDone t data s
  | .cueDue t => Sys2Proof.Machine.execCueDue t s
  | .strikeDispatch t => Sys2Proof.Machine.execStrikeDispatch t s
  | .wakeUpDue t => Sys2Proof.Machine.execWakeUpDue t s
  | .partEnd t => Sys2Proof.Machine.execPartEnd t s
  | .beatMark t => Sys2Proof.Machine.execBeatMark t s
  | .strikeDue t => Sys2Proof.Machine.execStrikeDue t s
  | .lateDeadline t => Sys2Proof.Machine.execLateDeadline t s
  | .pulseEnd t bell => Sys2Proof.Machine.execPulseEnd t bell s
  | .recoveryEnd t bell => Sys2Proof.Machine.execRecoveryEnd t bell s
  | .heatPeriodExpiry t => Sys2Proof.Machine.execHeatPeriodExpiry t s
  | .damperDrop t bell => Sys2Proof.Machine.execDamperDrop t bell s
  | .settlingDone t => Sys2Proof.Machine.execSettlingDone t s
  | .sensorPinChange t sensor high => Sys2Proof.Machine.execSensorPinChange t sensor high s
  | .sensorFilterExpiry t sensor => Sys2Proof.Machine.execSensorFilterExpiry t sensor s
  | .encoderFilterExpiry t sensor => Sys2Proof.Machine.execEncoderFilterExpiry t sensor s
  | .jamTimerExpiry t figure => Sys2Proof.Machine.execJamTimerExpiry t figure s
  | .coastTimerExpiry t figure => Sys2Proof.Machine.execCoastTimerExpiry t figure s
  | .reversalHoldExpiry t figure => Sys2Proof.Machine.execReversalHoldExpiry t figure s
  | .homingLimitExpiry t figure => Sys2Proof.Machine.execHomingLimitExpiry t figure s
  | .jamHomingWaitExpiry t figure => Sys2Proof.Machine.execJamHomingWaitExpiry t figure s
  | .ownClaimWindowEnd t => Sys2Proof.Machine.execOwnClaimWindowEnd t s
  | .peerClaimWindowEnd t => Sys2Proof.Machine.execPeerClaimWindowEnd t s
  | .claim t src payload => Sys2Proof.Machine.execClaim t src payload s
  | .reassert t src payload => Sys2Proof.Machine.execReassert t src payload s
  | .release t src payload => Sys2Proof.Machine.execRelease t src payload s
  | .silenceTimerExpiry t station => Sys2Proof.Machine.execSilenceTimerExpiry t station s
  | .attemptStart t => Sys2Proof.Machine.execAttemptStart t s
  | .collision t => Sys2Proof.Machine.execCollision t s
  | .breakEnd t => Sys2Proof.Machine.execBreakEnd t s
  | .frameSent t => Sys2Proof.Machine.execFrameSent t s
  | .readyRequeue t => Sys2Proof.Machine.execReadyRequeue t s
  | .releaseRequeue t => Sys2Proof.Machine.execReleaseRequeue t s
  | .helloRequeue t => Sys2Proof.Machine.execHelloRequeue t s
  | .claimRetryTrial t => Sys2Proof.Machine.execClaimRetryTrial t s
  | .railMeasurement t decivolts => Sys2Proof.Machine.execRailMeasurement t decivolts s
  | .lampPeriod t => Sys2Proof.Machine.execLampPeriod t s
  | .pwmPeriod t => Sys2Proof.Machine.execPwmPeriod t s
  | .strobePulseEnd t => Sys2Proof.Machine.execStrobePulseEnd t s
  | .characterReceived t data mark => Sys2Proof.Machine.execCharacterReceived t data mark s

end Sys2Proof.Machine
end

