-- ==== Sys2Proof/Machine/Step.lean ====
section
/-! DEFINITION. One step: the waiting command at the front of the queue is executed. -/

namespace Sys2Proof.Machine

/-- A step: the front command acts on the state that holds the queue's rest. With no command waiting the
block idles (DESIGN CHOICE, log entry 1). -/
def step (s : State) : Host.Outcome State Fault Refusal :=
  match s.pending with
  | [] => .next s
  | c :: rest => exec c { s with pending := rest }

/-- `s` with the command that a word spells at the front of its queue; no row of the table has bits, so
no word spells one. -/
def State.withFetchWord (s : State) (nbits w : Nat) : State :=
  match Sys2Proof.decodeTableWord nbits w with
  | some c => { s with pending := c :: s.pending }
  | none => s

end Sys2Proof.Machine
end

