-- ==== Sys2Proof/Safety.lean ====
section
/-! DEFINITION. The terms in which claims about the SC-412 are stated: when a command reaches a running
part, what a good frame does to the line's bookkeeping, and the bounds the spec puts on the state. -/

namespace Sys2Proof.Machine

/-- A command of moment `t` reaches a part whose reset pin is high, and not from the past. -/
def Live (t : Nat) (s : State) : Prop := s.inReset = false ∧ s.now ≤ t

/-- No trial of the request list is owed and no grant waits to be handed over, as between commands. -/
def ZonesAtRest (s : State) : Prop := s.zon.trialDue = false ∧ s.zon.granted = []

/-- A good frame of source `src` that ends at `t` is taken whole by the receiver and handed on
(R149, R150): the part is past STARTING, has no attempt of its own on the line, and the source is not its
own number. -/
def Hears (t : Nat) (src : Byte) (s : State) : Prop :=
  Live t s ∧ s.bus.rxOn = true ∧ s.bus.tx ≠ .sending ∧ s.iml.station ≠ .starting
    ∧ s.iml.number ≠ some src.toNat

/-- The Bus Interface after a good frame of `src` that ended at `t`: the line idle from then, the assembly
empty, one more frame ended, and the peer-table entry of a station 1 to 30 PRESENT with 40 s to run
(R146, R148, R157). -/
def Bus.afterFrame (src t : Nat) (b : Bus) : Bus :=
  { b with
    assembly := [], lastChar := t, idleFrom := t, frameEnds := b.frameEnds + 1
    peers := if 1 ≤ src ∧ src ≤ 30 then b.peers.set src (.present (t + 40000000)) else b.peers }

/-- `s` as a good frame of `src` that ended at `t` leaves it before the frame's owner takes it. -/
def heardAt (t : Nat) (src : Byte) (s : State) : State :=
  { s with now := t, bus := Bus.afterFrame src.toNat t s.bus }

/-- The level that R5 gives an entry in force, a grade, a quiet override (set or not) and a minute of the
day. -/
def levelAt (entry : Option CalEntry) (grade : Nat) (overridden : Bool) (m : Nat) : Level :=
  match entry with
  | none => .closed
  | some e =>
    if grade = 15 then .quiet
    else if e.openFrom ≤ m ∧ m < e.quietFrom then (if overridden then .quiet else .opened)
    else if e.quietFrom ≤ m ∧ m < e.closedFrom then .quiet
    else .closed

/-- The lamps of `s`, each at its level at `t`, a fade that has run its time discarded (R137). -/
def lampsWorked (t : Nat) (s : State) : List Lamp :=
  s.chr.lamps.map fun l => ⟨fadeLevel l t, l.fade.filter fun f => decide (t < f.at_ + f.dur)⟩

/-- The lamps of `s` as the lamp hold is judged at `t` by a new level (R138): worked afresh where it lifts. -/
def lampsAt (t : Nat) (lv : Level) (s : State) : List Lamp :=
  if s.sck.level = .closed ∧ lv ≠ .closed ∧ ¬(inShow s = true ∧ s.she.showRec.map (·.slot) = some 2047) then
    lampsWorked t s
  else s.chr.lamps

/-- The lamps of `s` as the lamp hold is judged at `t` by one new level and then by another (R138). -/
def lampsVia (t : Nat) (mid lv : Level) (s : State) : List Lamp :=
  lampsAt t lv { s with sck := { s.sck with level := mid }, chr := { s.chr with lamps := lampsAt t mid s } }

/-- The Station Clock after the crossing into minute `n`, counted from 2000-01-01 (R4 to R6): the calendar
matched, an override that ends there or was passed cleared, the level of the minute that begins. -/
def Sck.atMinute (n : Nat) (k : Sck) : Sck :=
  let entry := matchDay k.calendar (n / 1440)
  let quiet := k.quiet.filter fun e => !(e == n || (decide (k.minuteDone < e) && decide (e ≤ n)))
  { k with
    minuteDone := n, entry := entry, quiet := quiet
    level := levelAt (entry.bind fun i => k.calendar[i]?) k.grade quiet.isSome (n % 1440) }

/-- The minutes, counted from 2000-01-01, of the listed slot moments after one time and at or before another,
both in ms since then (R13). -/
def collected (tab : List SlotEntry) (old new : Nat) : List Nat :=
  (List.range (new / 60000 + 1)).filter fun n => decide (old < n * 60000) && listed tab (n % 1440)

/-- The collected moments of a step that lie more than 30 s before its landing point (R13). -/
def missedAtStep (tab : List SlotEntry) (old new : Nat) : List Nat :=
  (collected tab old new).filter fun n => decide (30000 < new - n * 60000)

/-- The Show Engine of `s`, in IDLE, after a step at `t` from `old` to `new` (R13, R20): the moment within the
grace, if there is one and the last-slot record does not hold it, starts the call delay of a station that may
call. -/
def sheAfterStep (t old new : Nat) (mayCall : Bool) (s : State) : She :=
  let n := new / 60000
  if n ∈ collected s.sck.slots old new ∧ new - n * 60000 ≤ 30000
      ∧ s.sck.lastSlot ≠ some (n % 1440, n / 1440) ∧ s.iml.station = .inService ∧ mayCall then
    { s.she with
      engine := .callWait
      pend := some ⟨n % 1440, some (slotKind s.sck.slots (n % 1440)), n / 1440, none,
        some (t + 10000 * ownNo s)⟩ }
  else s.she

/-- The states in which the station's owners queue frames: IN_SERVICE, and STOPPED without the muted flag
(R159, R160). -/
def Sends (s : State) : Prop :=
  s.iml.station = .inService ∨ (s.iml.station = .stopped ∧ s.iml.muted = false)

/-- The source is a service peer of this station (R173). -/
def Serves (src : Byte) (s : State) : Prop := inServiceSet s src.toNat = true

/-- The queue with a frame entered as its youngest, as where it finds room (R156). -/
def Bus.queued (c : Content) (b : Bus) : Bus :=
  { b with queue := b.queue ++ [⟨b.nextId, c⟩], nextId := b.nextId + 1 }

/-- `s` with the Show Engine back in IDLE at `t`: every record discarded (R17), and the 5 s wait of each
JAMMED figure that owes one begun (R113). -/
def idleAt (t : Nat) (s : State) : State :=
  { s with
    now := t, she := ⟨.idle, none, none, none, none⟩
    fig := { s.fig with run := s.fig.run.map fun r =>
      if r.state = .jammed ∧ r.jamWait = .owed then { r with jamWait := .until (t + 5000000) } else r } }

/-- The Station Clock with a slot written into its last-slot record; slot 2047 is never written (R10). -/
def Sck.dealt (slot day : Nat) (k : Sck) : Sck :=
  if slot = 2047 then k else { k with lastSlot := some (slot, day) }

/-- A gate record released at `t` (R45): number one on (none after 255), ready set empty, settling 50 ms. -/
def GateRec.released (t : Nat) (g : GateRec) : GateRec :=
  { g with
    number := match g.number with
      | some n => if n < 255 then some (n + 1) else none
      | none => none
    phase := .released, readySet := 0, timer := none, settle := some (t + 50000), readyFrame := none
    goFrame := none, readyLost := none }

/-- R42: a gate numbered 1 to 255, STANDING, is met by the station: every MOVE of the show has ended, and the slot
of the first cue after the gate is READY or BAD (or has been: both pointers have passed it; log entry 50), or no cue
follows. -/
def MeetsR42 (g : GateRec) (s : State) : Prop :=
  g.phase = .standing ∧ (∃ n, g.number = some (n + 1)) ∧ (∀ r ∈ s.fig.run, r.showMove = false)
    ∧ match s.csq.gateAfter with
      | none => False
      | some (none, _) => True
      | some (some _, item) =>
        s.csq.builtin = true ∨ (∃ sl, slotOf s item = some sl ∧ (sl.state = .ready ∨ sl.state = .bad))
          ∨ item < min s.csq.play.item s.csq.lead.item

/-- What a cursor finds keeps the play pointer there while the beat clock stands: the end of the walk, a block not
read, or a cue that passes its checks, is no STRIKE or HOURSTRIKE, and no GATE cue taken up already (R58, R68). -/
def PlayRests (s : State) (c : Cursor) : Prop :=
  cueView s c = .ended ∨ cueView s c = .unread
    ∨ ∃ p q, cueView s c = .cue p q ∧ cueValid s (partsOf s) p c.prev q = true ∧ q.kind ≠ 1 ∧ q.kind ≠ 3
      ∧ ¬(q.kind = 7 ∧ p ∈ s.csq.gatesDone)

/-- What a cursor finds keeps the lead pointer there while the beat clock stands: the end of the walk, a block not
read, or a STRIKE or HOURSTRIKE that passes its checks (R58, R69). -/
def LeadRests (s : State) (c : Cursor) : Prop :=
  cueView s c = .ended ∨ cueView s c = .unread
    ∨ ∃ p q, cueView s c = .cue p q ∧ cueValid s (partsOf s) p c.prev q = true ∧ (q.kind = 1 ∨ q.kind = 3)

/-- No slot is left with the play pointer at a cursor: each is EMPTY, or holds the item of the trailing pointer or a
later one (R61). -/
def NoSlotLeft (s : State) (c : Cursor) : Prop :=
  ∀ sl ∈ [s.csq.slotA, s.csq.slotB], sl.state = .empty ∨ min c.item s.csq.lead.item ≤ sl.item

/-- `s`, its beat clock standing, with the play pointer at rest at a cursor and what the lead pointer waits for; the
play pointer waits where the block there is not read (R63). -/
def standsAt (c : Cursor) (wait : Option Nat) (s : State) : State :=
  { s with csq := { s.csq with
    play := { c with waiting := if cueView s c = .unread then some c.item else none }
    lead := { s.csq.lead with waiting := wait } } }

/-- `s`, with this gate record, once the station has become ready: GATE_WAIT, READY_QUEUED, its READY in the
queue (R43). -/
def readyAt (g : GateRec) (s : State) : State :=
  { s with
    she := { s.she with engine := .gateWait }
    bus := s.bus.queued (.ready ((s.she.showRec.map (·.slot)).getD 0) (g.number.getD 0))
    gtu := { s.gtu with gate := some { g with
      phase := .readyQueued, readyFrame := some s.bus.nextId, readyLost := none } } }

/-- A figure whose run has ended at `t`: its motor off, coasting 200 ms, no jam timer and no reversal hold
(R107). -/
def FigRun.halted (t : Nat) (q : FigRun) : FigRun :=
  { q with duty := 0, coast := some (t + 200000), jam := none, hold := none, run := none }

/-- `s` after the drive of figure `f` has ended at `t` in a jam or an overtravel, `code`: in HOMING the figure is
FAILED (R108, R109, R112); in MOVING it is JAMMED, the jam-homing wait owed, and the end of its show move has
readiness checked (R113, R116). -/
def driveBreaks (code : FaultCode) (f t : Nat) (s : State) : State :=
  let q := figRun s f
  let put := fun (x : FigRun) => { s with fig := { s.fig with run := s.fig.run.set f x } }
  if q.state = .homing then raiseFault .figureFailed f (put { q.halted t with state := .failed })
  else
    let u := raiseFault code f (put { q.halted t with state := .jammed, jamWait := .owed, showMove := false })
    if q.showMove then gateCheck u else u

/-- A request list after the loss of the claim whose CLAIM has this number: the request it was for waits again,
at the head (R119, R123, R126). -/
def backToHead (g : Nat) (reqs : List ZoneReq) : List ZoneReq :=
  (reqs.filter fun r => r.state == .claiming g).map (fun r => { r with state := .waiting })
    ++ reqs.filter fun r => r.state != .claiming g

/-- A show record as a withdrawal leaves it: the own number out of the participant set, the withdrawal flag
set (R34). -/
def ShowRec.left (own : Nat) (r : ShowRec) : ShowRec :=
  { r with members := Bits.erase r.members own, withdrawn := true }

/-- A station with no figure, in ARMING, GATE_WAIT or RUNNING, after it has withdrawn from the show with a
reason (R34): WITHDRAWN recorded and WITHDRAW queued; SETTLING; the strike list and the hour records emptied
and every damper DOWN (R94); the clock stopped where it stands, every cue skipped, the slots, reads and
wake-ups gone, the strobe low (R71); the gate record and its queued frames gone (R52); every lamp out (R138). -/
def withdrawnFrom (reason : Reason) (s : State) : State :=
  let u := raiseFault .withdrawn ((s.she.showRec.map (·.prog)).getD 0)
    { s with she := { s.she with showRec := s.she.showRec.map (·.left (ownNo s)) } }
  { u with
    she := { u.she with engine := .settling }, gtu := { u.gtu with gate := none }
    csq := { u.csq with
      running := false, tau := showTime s, play := Cursor.nowhere, lead := Cursor.nowhere, port := []
      slotA := CueSlot.vacant, slotB := CueSlot.vacant, wakeups := [], gateAfter := none, gatesDone := [] }
    bel := { u.bel with strikes := [], hours := [], run := u.bel.run.map fun r => { r with damper := .down } }
    fig := { u.fig with run := u.fig.run.map fun r => { r with showMove := false } }
    chr := { u.chr with strobeEnd := none, lamps := u.chr.lamps.map fun _ => ⟨0, none⟩ }
    bus := { u.bus.queued (.withdraw ((s.she.showRec.map (·.slot)).getD 0) reason) with
      queue := (u.bus.queued (.withdraw ((s.she.showRec.map (·.slot)).getD 0) reason)).queue.filter fun f =>
        !(match f.content with
          | .ready _ _ | .go _ _ _ => true
          | _ => false) || u.bus.current == some f.id } }

/-- `s` after participant `n` has been removed from the set of its show (R35, R36), which changes nothing where
`n` is no participant: the gate in hand, in phase READY, is released if every remaining participant is ready,
else its deadline is worked again (R45, R47; log entry 31). -/
def withoutMember (n : Nat) (s : State) : State :=
  match s.she.showRec with
  | none => s
  | some r =>
    let m := Bits.erase r.members n
    let u := { s with she := { s.she with showRec := some { r with members := m } } }
    if Bits.mem r.members n then
      match s.gtu.gate with
      | none => u
      | some g =>
        if g.phase ≠ .ready then u
        else if Bits.subset m g.readySet then
          { (match g.goFrame with
            | some id => removeFrame id u
            | none => u) with gtu := { s.gtu with gate := some (g.released s.now) } }
        else { u with gtu := { s.gtu with gate := some { g with
          timer := g.timer.map fun _ => g.readyMoment + s.gtu.limit * 1000000
            + (gateRank (ownNo s) g.readySet m - 1) * 100000 } } }
    else s

/-- The bounds that the spec gives counters, lists and the grade (R2, R39, R148, R154, R168, R169). -/
structure Bounded (s : State) : Prop where
  grade : 1 ≤ s.sck.grade ∧ s.sck.grade ≤ 15
  faults : s.flt.list.length ≤ 8
  advisory : s.flt.counters.length = 19 ∧ ∀ c ∈ s.flt.counters, c ≤ 255
  suppressed : s.flt.suppressed ≤ 255
  moveSkipped : s.flt.moveSkipped ≤ 255
  rxBroken : s.bus.rxBroken ≤ 255
  rxCheck : s.bus.rxCheck ≤ 255
  txCollision : s.bus.txCollision ≤ 255
  stray : s.gtu.stray ≤ 255
  queue : s.bus.queue.length ≤ 8

end Sys2Proof.Machine
end

