-- ==== Sys2Proof/Certificates/Slice0/Obligations.lean ====
section
/-! DEFINITION. What is claimed of the SC-412: one `Prop` a statement. Each docstring names the rules of spec/
whose effects the statement puts together, and the log entries where it rests on a choice of the model. -/

open Sys2Proof Sys2Proof.Machine

/-! ## Steps and resets -/

/-- The command at the front of the queue is executed on the state that holds the queue's rest. The queue itself
is the model's (log entry 1). -/
def Obligations.StepRunsFrontCommand : Prop :=
  ∀ (c : Instr) (rest : List Instr) (s : State),
    s.pending = c :: rest → step s = exec c { s with pending := rest }

/-- The values the chapters' reset tables state for a full reset, in `State.reset`. -/
def Obligations.ResetHasStatedValues : Prop :=
  let s := State.reset
  -- R167, R160
  s.iml.station = .starting ∧ s.iml.muted = false ∧ s.iml.header = none ∧ s.iml.load = none
    ∧ s.iml.listen = none ∧ s.iml.helloPending = false
  -- R16
  ∧ clockMs s = 0 ∧ s.sck.grade = 15 ∧ s.sck.ageTimer = none ∧ s.sck.slew = 0 ∧ s.sck.calendar = []
    ∧ s.sck.slots = [] ∧ s.sck.entry = none ∧ s.sck.level = .closed ∧ s.sck.quiet = none
    ∧ s.sck.lastSlot = none ∧ s.sck.timeTimer = none
  -- R38, R39
  ∧ s.she.engine = .idle ∧ s.she.pend = none ∧ s.she.gather = none ∧ s.she.answer = none
    ∧ s.she.showRec = none ∧ s.gtu.gate = none ∧ s.gtu.stray = 0
  -- R73
  ∧ (∀ p < 32, (s.csq.directory.getD p DirEntry.absent).present = false
      ∧ (s.csq.directory.getD p DirEntry.absent).bad = false)
    ∧ s.csq.parts = none ∧ s.csq.slotA.state = .empty ∧ s.csq.slotB.state = .empty
    ∧ s.csq.running = false ∧ s.csq.tau = 0 ∧ s.csq.wakeups = [] ∧ s.csq.port = []
  -- R96
  ∧ (∀ b < 13, bellRec s b = none ∧ (bellRun s b).hammer = .idle ∧ (bellRun s b).heat = 0
      ∧ (bellRun s b).damper = .down)
    ∧ s.bel.k = 1 ∧ s.bel.tolerance = 30 ∧ s.bel.hourBell = none ∧ s.bel.strikes = [] ∧ s.bel.hours = []
  -- R117
  ∧ (∀ f < 7, figRec s f = none ∧ (figRun s f).state = .unhomed ∧ (figRun s f).pos = 0
      ∧ (figRun s f).lastOut = false ∧ (figRun s f).duty = 0 ∧ (figRun s f).run = none
      ∧ (figRun s f).jamWait = .none ∧ (figRun s f).showMove = false)
  -- R132
  ∧ (∀ z < 64, zoneAt s z = .free) ∧ s.zon.reqs = [] ∧ s.zon.marks = []
  -- R145
  ∧ (∀ ch < 17, chanRec s ch = ⟨.off, .bar⟩ ∧ lampAt s ch = ⟨0, none⟩ ∧ outputOn s ch = false)
    ∧ (∀ n < 9, sensRec s n = .off ∧ (sensRun s n).filtered = none)
    ∧ s.chr.rail = .cut ∧ s.chr.cntDown = 0 ∧ s.chr.warn = 0 ∧ s.chr.cut = 0 ∧ lampHold s = true
  -- R159
  ∧ s.bus.rxOn = false ∧ s.bus.assembly = [] ∧ s.bus.tx = .idle ∧ s.bus.queue = []
    ∧ s.bus.pointer = .routine ∧ s.bus.rxBroken = 0 ∧ s.bus.rxCheck = 0 ∧ s.bus.txCollision = 0
    ∧ (∀ n < 31, s.bus.peers.getD n .unknown = .unknown) ∧ s.bus.dup = false
  -- R177
  ∧ s.flt.list = [] ∧ s.flt.counters = List.replicate 19 0 ∧ s.flt.suppressed = 0 ∧ s.flt.moveSkipped = 0
    ∧ s.flt.maskAdvisory = false ∧ s.flt.maskDegraded = false ∧ s.flt.pinOnDegraded = false
    ∧ (∀ n, 32 ≤ n → n ≤ 39 → inServiceSet s n = true) ∧ faultPin s = false

/-- FULL_RESET in any state: the reset state, at the present moment, the pins as they stand and what waits still
waiting. RESET_RELEASE: the read of the image header begins, the clock and the heat period timer run from now;
nothing else changes. A release without a reset changes the moment only. That the moment, the pins and what
waits are kept, and that a release without a reset does no more, is the model's choice (log entries 1 and 4). R16:
from the full reset to the release, however long, and at the release the clock reads the start of 2000. -/
def Obligations.FullResetAndReleaseBeginTheLoad : Prop :=
  (∀ (t : Nat) (s : State),
    exec (.fullReset t) s = .next { State.reset with
      now := max s.now t, pending := s.pending
      chr := { State.reset.chr with sensors := s.chr.sensors.map fun r => ⟨r.pin, none, none⟩ } })
  ∧ (∀ (t : Nat) (s : State), s.now ≤ t →
    exec (.resetRelease t) s = .next (
      if s.inReset then
        { s with
          now := t, inReset := false
          iml := { s.iml with load := some ⟨1, 1, some t, none, [], [], []⟩ }
          sck := { s.sck with clkAt := t }, bel := { s.bel with heatTimer := some (t + 10000) } }
      else { s with now := t }))
  ∧ (∀ (t t' : Nat) (s : State), ∃ u v, exec (.fullReset t) s = .next u ∧ exec (.resetRelease t') u = .next v
    ∧ clockMs { u with now := max u.now t' } = 0 ∧ clockMs v = 0)

/-- Every command answers a next state in every state, the moment never goes back, and the waiting queue is left
to the step. That a command of a past moment acts at the present one is the model's choice (log entry 1). -/
def Obligations.EveryCommandCompletes : Prop :=
  ∀ (c : Instr) (s : State), ∃ u, exec c s = .next u ∧ s.now ≤ u.now ∧ u.pending = s.pending

/-! ## Loading and entry to service (chapter 10) -/

/-- A header read that ends with a good header (Table 9) is kept, and the read of the configuration block
begins. The first read of an area, if it fails, is repeated 100 ms later: the reread timer starts, and its
expiry begins the second attempt. The second read of an area, if it fails too, stops the station at start,
muted, its fault pin on: IMAGE_UNREADABLE where every byte is FFh, else CONFIG_BAD, the area as detail. That an area
of length 0, of which no byte is read, fails its checks is the model's choice (log entry 54). -/
def Obligations.AreaReadsLeadOnRepeatOrStop : Prop :=
  (∀ (t t0 : Nat) (d : List Byte) (l : LoadRec) (s : State), Live t s →
    s.iml.load = some l → l.area = 1 → l.started = some t0 → t0 + 72 ≤ t → d.length = 32 →
    le16 d 0 = 0x6C2E → le16 d 2 = 1 → wordSum d % 65536 = 0 →
    (∀ i ∈ [4, 9, 14, 19], le24 d i + le16 d (i + 3) ≤ 16777216) →
    exec (.imageReadDone t d) s = .next { s with
      now := t
      iml := { s.iml with
        header := some ⟨⟨le24 d 4, le16 d 7⟩, ⟨le24 d 9, le16 d 12⟩, ⟨le24 d 14, le16 d 17⟩,
          ⟨le24 d 19, le16 d 22⟩, le24 d 24, le24 d 27⟩
        load := some { l with area := 2, attempt := 1, started := some t, reread := none } } })
  ∧ ((∀ (t t0 : Nat) (d : List Byte) (l : LoadRec) (s : State), Live t s →
    s.iml.load = some l → l.attempt = 1 → l.started = some t0 → d.length = (loadArea s l.area).len →
    t0 + 2 * (4 + d.length) ≤ t → areaValid l.area d = false →
    exec (.imageReadDone t d) s = .next { s with
      now := t, iml := { s.iml with load := some { l with started := none, reread := some (t + 100000) } } })
  ∧ ∀ (t e : Nat) (l : LoadRec) (s : State), Live t s → s.iml.load = some l → l.reread = some e → e ≤ t →
    exec (.rereadTimerExpiry t) s = .next { s with
      now := t
      iml := { s.iml with load := some { l with attempt := 2, started := some t, reread := none } } })
  ∧ (∀ (t t0 : Nat) (d : List Byte) (l : LoadRec) (s : State), Live t s → s.she.engine = .idle →
    s.iml.load = some l → l.attempt = 2 → l.started = some t0 → d.length = (loadArea s l.area).len →
    t0 + 2 * (4 + d.length) ≤ t → areaValid l.area d = false →
    ∃ u, exec (.imageReadDone t d) s = .next u ∧ u.iml.station = .stopped ∧ u.iml.muted = true
      ∧ u.iml.load = none ∧ u.bus.rxOn = true ∧ u.bus.queue = [] ∧ faultPin u = true
      ∧ u.flt.list.head? = some ⟨if d ≠ [] ∧ ∀ b ∈ d, b = 0xFF then .imageUnreadable else .configBad, l.area,
          dayNo { s with now := t }, minuteOfDay { s with now := t }⟩)

/-- A good read of the last area, the tables passing every check: the station enters LISTENING with its own number,
the 2 s listen timer and the 16 s TIME period timer started, the receiver on, the directory loaded and the calendar
matched. R162: the first check that fails, in their order, stops the station instead, muted, its fault pin on:
CONFIG_BAD, the check's area as detail; no table is taken, and the station number and the bit rate are those of the
configuration block, if its bit rate code is valid (after a service restart too, where R165 keeps the rate until a
reload is accepted: log entry 16). R1: a clock that has reached the end of 2099 passes it first, to the start of 2000
with grade 15. -/
def Obligations.AcceptedImageEntersListening : Prop :=
  ∀ (t t0 : Nat) (d : List Byte) (l : LoadRec) (m : Image) (s : State), Live t s →
    s.iml.load = some l → l.area = 5 → l.started = some t0 → (loadArea s 5).len = 258 → t0 + 524 ≤ t →
    d.length = 258 → wordSum d % 65536 = 0 → (∃ b ∈ d, b ≠ 0xFF) →
    m = ⟨l.config, l.path, l.calendar, d⟩ → badEntries m = [] →
    let past := 36525 * 86400000 ≤ clockMs { s with now := t }
    let clock := if past then clockMs { s with now := t } - 36525 * 86400000 else clockMs { s with now := t }
    ((∀ x ∈ earlyChecks m ++ lateChecks m, x.1 = true) →
    ∃ u, exec (.imageReadDone t d) s = .next u ∧ u.now = t ∧ u.iml.station = .listening
      ∧ u.iml.number = some (byteAt l.config 0) ∧ u.iml.load = none ∧ u.iml.listen = some (t + 2000000)
      ∧ u.sck.timeTimer = some (t + 16000000) ∧ u.bus.rxOn = true ∧ u.bus.queue = s.bus.queue
      ∧ u.csq.directory = m.dir ∧ clockMs u = clock ∧ u.sck.entry = matchDay m.entries (clock / 86400000)
      ∧ u.sck.grade = (if past then 15 else s.sck.grade) ∧ u.sck.lastSlot = s.sck.lastSlot ∧ u.flt.list = s.flt.list
      ∧ u.she = s.she ∧ u.zon = s.zon)
    ∧ ∀ (p q : List (Bool × Nat)) (area : Nat), earlyChecks m ++ lateChecks m = p ++ (false, area) :: q →
      (∀ x ∈ p, x.1 = true) → s.she.engine = .idle →
      ∃ u, exec (.imageReadDone t d) s = .next u ∧ u.iml.station = .stopped ∧ u.iml.muted = true
        ∧ u.iml.load = none ∧ u.iml.listen = none ∧ u.bus.rxOn = true ∧ u.bus.queue = [] ∧ faultPin u = true
        ∧ u.flt.list.head? = some ⟨.configBad, area, dayNo { s with now := t }, minuteOfDay { s with now := t }⟩
        ∧ u.iml.number = (if l.config ≠ [] ∧ byteAt l.config 2 ≤ 1 then some (byteAt l.config 0) else none)
        ∧ u.bus.fast = decide (byteAt l.config 2 = 1)
        ∧ u.sck = s.sck ∧ u.csq = s.csq ∧ u.bel = s.bel ∧ u.fig.figs = s.fig.figs ∧ u.fig.paths = s.fig.paths
        ∧ u.chr = s.chr ∧ u.gtu = s.gtu

/-- R164, R113: the listen timer's expiry: IN_SERVICE, HELLO pending, and a HELLO with the role flags queued; and
every configured figure in ascending number begins a homing run, in CLAIM, its motor off (coasting 200 ms where it
was on), its homing zones asked for or, having none, granted. Grants follow at the end of the step, which is the
model's choice (log entry 13); without a figure there is none. -/
def Obligations.ListenTimerEntersServiceWithHello : Prop :=
  ∀ (t e : Nat) (s : State), Live t s → ZonesAtRest s → s.iml.station = .listening →
    s.iml.listen = some e → e ≤ t → s.bus.queue.length < 8 →
    let u := { s with
      now := t
      iml := { s.iml with station := .inService, listen := none, helloPending := true, helloLost := none }
      bus := { s.bus with
        queue := s.bus.queue ++ [⟨s.bus.nextId, .hello s.iml.role⟩], nextId := s.bus.nextId + 1 } }
    ((∀ f, figRec s f = none) → exec (.listenTimerExpiry t) s = .next u)
    ∧ ((∀ r ∈ s.zon.reqs, figRec s r.figure = none) →
      let figs := (List.range 7).filterMap fun f => (figRec s f).map fun c => (f, c)
      exec (.listenTimerExpiry t) s = .next (settleZones trialFuel { u with
        fig := { s.fig with run := s.fig.run.mapIdx fun f q => match if f < 7 then figRec s f else none with
          | none => q
          | some c => { q with
            state := .homing, duty := 0, jam := none, hold := none, jamWait := .none
            coast := if 0 < q.duty then some (t + 200000) else q.coast
            run := some ⟨.homing, [(c.park, c.creep)], 1, 100, c.homingZones.map fun z => (z, 0), false, .claim,
              .seek, .off, decide (q.state = .jammed)⟩ } }
        zon := { s.zon with
          trialDue := figs.any fun x => decide (x.2.homingZones ≠ [])
          granted := (figs.filter fun x => decide (x.2.homingZones = [])).map (·.1)
          reqs := s.zon.reqs ++ (figs.filter fun x => decide (x.2.homingZones ≠ [])).map fun x =>
            ⟨x.1, x.2.homingZones, .waiting⟩ } }))

/-- The restart moment, once the restart's WITHDRAW has left the queue (or none was needed): reload from the
header read on, the number kept, the engine IDLE, every table and play record gone; kept are the clock, grade,
age timer, slew, last-slot record, the fault list and counters, the stray counter and the bus counters; the
transmitter's queue is empty. That the number is kept until the reload is the model's choice (log entry 16), as
are the segment and the anchors that a restart leaves (log entry 24). -/
def Obligations.RestartMomentReloadsAndKeeps : Prop :=
  ∀ (t : Nat) (s : State), Live t s →
    (s.iml.restart = .due ∨ ∃ n, s.iml.restart = .awaiting n ∧ ∀ f ∈ s.bus.queue, f.id ≠ n) →
    ∃ u, exec (.restartMoment t) s = .next u ∧ u.now = t
      ∧ u.iml.station = .starting ∧ u.iml.muted = false ∧ u.iml.helloPending = false ∧ u.iml.restart = .none
      ∧ u.iml.number = s.iml.number ∧ u.iml.load = some ⟨1, 1, some t, none, [], [], []⟩ ∧ u.iml.listen = none
      ∧ u.sck = { s.sck with
          calendar := [], slots := [], entry := none, level := .closed, quiet := none, quietCeiling := 0
          timeTimer := none }
      ∧ u.she = ⟨.idle, none, none, none, none⟩ ∧ u.gtu = { s.gtu with gate := none }
      ∧ u.csq = State.reset.csq ∧ u.bel = { State.reset.bel with heatTimer := s.bel.heatTimer }
      ∧ u.fig = State.reset.fig ∧ u.zon = State.reset.zon ∧ u.flt = s.flt
      ∧ u.chr.rail = .cut ∧ u.chr.cntDown = 0 ∧ u.chr.channels = State.reset.chr.channels
      ∧ u.chr.lamps = State.reset.chr.lamps ∧ u.chr.strobeEnd = none
      ∧ (∀ r ∈ u.chr.sensors, r.filtered = none)
      ∧ u.bus.queue = [] ∧ u.bus.rxBroken = s.bus.rxBroken ∧ u.bus.rxCheck = s.bus.rxCheck
      ∧ u.bus.txCollision = s.bus.txCollision ∧ u.bus.dup = false
      ∧ u.bus.peers = List.replicate 31 .unknown ∧ u.bus.rxOn = s.bus.rxOn

/-! ## Station Clock (chapter 1) -/

/-- R4 to R6, R9: a minute boundary whose minute is not listed, or is the last-slot record's: the calendar is
matched, an override that ends is cleared, the level worked out for the minute that begins, and no slot moment
comes. R138: where the new level lifts the lamp hold, every lamp shows its present level at once. R1: the boundary at
the end of 2099 puts the clock to the start of 2000, grade 15, the age timer stopped
and the slew cleared. That only the present minute is worked, and which overrides end, is the model's choice
(log entries 9 and 12). -/
def Obligations.MinuteBoundaryWorksTheLevelAndWraps : Prop :=
  (∀ (t n : Nat) (s : State), Live t s → n = clockMs { s with now := t } / 60000 →
    s.sck.minuteDone < n → n < 36525 * 1440 →
    (listed s.sck.slots (n % 1440) = false ∨ s.sck.lastSlot = some (n % 1440, n / 1440)) →
    exec (.minuteBoundary t) s = .next { s with
      now := t, sck := s.sck.atMinute n, chr := { s.chr with lamps := lampsAt t (s.sck.atMinute n).level s } })
  ∧ (∀ (t : Nat) (s : State), Live t s → s.sck.minuteDone < 36525 * 1440 →
    36525 * 86400000 ≤ clockMs { s with now := t } →
    ∃ u, exec (.minuteBoundary t) s = .next u ∧ clockMs u = clockMs { s with now := t } - 36525 * 86400000
      ∧ u.sck.grade = 15 ∧ u.sck.ageTimer = none ∧ u.sck.slew = 0 ∧ u.sck.slewTimer = none)

/-- R9, R20: the boundary of a listed minute at a station in IDLE that meets the conditions of R20 (IN_SERVICE,
grade 14 or better, not CLOSED in the minute that begins) starts the call delay, 10 ms times its number; a
station that misses one drops the moment. R20: a slot moment that finds the station negotiating, or in a show,
is skipped: SLOT_SKIPPED with detail 255, or with the programme of the show. R138: a level that lifts the lamp hold
has every lamp at its present level at once. That only the present minute is
worked, and which overrides end at it, is the model's choice (log entries 9 and 12). -/
def Obligations.SlotMomentStartsTheDelayOrIsSkipped : Prop :=
  (∀ (t n : Nat) (s : State), Live t s → n = clockMs { s with now := t } / 60000 →
    s.sck.minuteDone < n → n < 36525 * 1440 → listed s.sck.slots (n % 1440) = true →
    s.sck.lastSlot ≠ some (n % 1440, n / 1440) → s.she.engine = .idle →
    let k := s.sck.atMinute n
    exec (.minuteBoundary t) s = .next { s with
      now := t, sck := k, chr := { s.chr with lamps := lampsAt t k.level s }
      she := if s.iml.station = .inService ∧ s.sck.grade ≤ 14 ∧ k.level ≠ .closed then
          { s.she with
            engine := .callWait
            pend := some ⟨n % 1440, some (slotKind s.sck.slots (n % 1440)), n / 1440, none,
              some (t + 10000 * ownNo s)⟩ }
        else s.she })
  ∧ (∀ (t n : Nat) (s : State), Live t s → n = clockMs { s with now := t } / 60000 →
    s.sck.minuteDone < n → n < 36525 * 1440 → listed s.sck.slots (n % 1440) = true →
    s.sck.lastSlot ≠ some (n % 1440, n / 1440) → s.she.engine ≠ .idle →
    exec (.minuteBoundary t) s = .next (raiseFault .slotSkipped
      (if inShow s then (s.she.showRec.map (·.prog)).getD 0 else 255)
      { s with
        now := t, sck := s.sck.atMinute n, chr := { s.chr with lamps := lampsAt t (s.sck.atMinute n).level s } }))

/-- R12: a slew period ends with the clock 65, 63 or 64 ms on and the remaining slew one ms nearer to 0; the
period timer runs on while slew remains. (No minute boundary lies in the jump.) R2: the age timer worsens the
grade by one, to 14 at most, and restarts with 4 h. The clock's reading inside a slew period is the model's
choice (log entry 7). -/
def Obligations.SlewAndAgeTimersRun : Prop :=
  (∀ (t : Nat) (s : State), Live t s → s.sck.slewTimer = some t →
    (s.sck.clkMs + 65) / 60000 ≤ s.sck.minuteDone →
    exec (.slewPeriodExpiry t) s = .next { s with
      now := t
      sck := { s.sck with
        clkMs := s.sck.clkMs + (if 0 < s.sck.slew then 65 else if s.sck.slew < 0 then 63 else 64)
        clkAt := t, slew := s.sck.slew - s.sck.slew.sign
        slewTimer := if s.sck.slew - s.sck.slew.sign = 0 then none else some (t + 64000) } })
  ∧ (∀ (t e : Nat) (s : State), Live t s → s.sck.ageTimer = some e → e ≤ t →
    exec (.ageTimerExpiry t) s = .next { s with
      now := t
      sck := { s.sck with
        grade := if s.sck.grade ≤ 13 then s.sck.grade + 1 else 14, ageTimer := some (e + 14400000000) } })

/-- R11, R155: the TIME period restarts with 16 s, and a sending station queues a TIME unless one waits. R12: a TIME
of a better grade within 500 ms of the own clock is adopted by a slew: grade one above, the age timer restarted, the
level worked again. R12, R13: one further off steps the clock to the carried time and the frame's length, the slew
cleared, the calendar matched and the level worked for the landing minute, no show timing touched; the slot moments
of the step are taken as `Obligations.SetTimeStepsTheClock` says. R138: each new level, that of the new grade and
then that of the landing minute, that lifts the lamp hold has every lamp at its present level. A TIME that is not
adopted changes nothing but what any good frame does. That a slew or a step begins a new ms is the model's choice
(log entry 8). -/
def Obligations.TimeIsQueuedAndAdopted : Prop :=
  (∀ (t e : Nat) (s : State), Live t s → s.sck.timeTimer = some e → e ≤ t →
    let s1 := { s with now := t, sck := { s.sck with timeTimer := some (e + 16000000) } }
    (Sends s → (∀ f ∈ s.bus.queue, ∀ v, f.content ≠ .time v) →
      exec (.timePeriodExpiry t) s = .next (queueFrame (.time none) s1))
    ∧ ((¬Sends s ∨ ∃ f ∈ s.bus.queue, ∃ v, f.content = .time v) →
      exec (.timePeriodExpiry t) s = .next s1))
  ∧ (∀ (t : Nat) (src : Byte) (p : List Byte) (x : TimeIn) (s : State), Hears t src s → parseTime p = some x →
    let new := x.ms + (13 * charUs s + 500) / 1000
    let own := clockMs { s with now := t }
    let here := levelAt (entryInForce s) (x.grade + 1) s.sck.quiet.isSome (own % 86400000 / 60000)
    let good := (x.grade ≠ 0 ∨ Serves src s) ∧ x.grade < 14 ∧ x.grade + 1 ≤ s.sck.grade
      ∧ new < 36525 * 86400000
    (¬good → exec (.time t src p) s = .next (heardAt t src s))
    ∧ (good → new ≤ own + 500 → own ≤ new + 500 →
      exec (.time t src p) s = .next { heardAt t src s with
        chr := { s.chr with lamps := lampsAt t here s }
        sck := { s.sck with
          grade := x.grade + 1, ageTimer := some (t + 14400000000), level := here
          clkMs := own, clkAt := t, slew := (new : Int) - own, slewTimer := some (t + 64000) } })
    ∧ (good → (own + 500 < new ∨ new + 500 < own) →
      ∃ u, exec (.time t src p) s = .next u ∧ clockMs u = new ∧ u.sck.clkAt = t ∧ u.sck.slew = 0
        ∧ u.sck.slewTimer = none ∧ u.sck.grade = x.grade + 1 ∧ u.sck.ageTimer = some (t + 14400000000)
        ∧ u.sck.timeTimer = s.sck.timeTimer ∧ u.sck.entry = matchDay s.sck.calendar (new / 86400000)
        ∧ u.sck.level = levelAt (entryInForce u) (x.grade + 1) u.sck.quiet.isSome (new % 86400000 / 60000)
        ∧ u.csq = s.csq ∧ u.bel = s.bel ∧ u.fig = s.fig ∧ u.gtu = s.gtu ∧ u.zon = s.zon
        ∧ u.chr = { s.chr with lamps := lampsVia t here u.sck.level s }
        ∧ (new ≤ own → u.she = s.she ∧ u.flt = s.flt)
        ∧ (own < new → s.she.engine = .idle → let late := missedAtStep s.sck.slots own new
          u.she = sheAfterStep t own new (u.sck.level ≠ .closed) s
          ∧ u.flt = if late = [] then s.flt
              else (raiseFault .slotMissed (min late.length 255) { heardAt t src s with sck := u.sck }).flt)))

/-- R13, R14: an accepted SET_TIME steps the clock to the carried time and the frame's length, sets grade 1 and the
age timer, matches the calendar, works the level for the landing minute, and touches no show timing. R13: of the
listed moments after the old time and at or before the new one, in a step forward, the one within 30 s of the landing
is raised, to a station in IDLE here, and the others are missed: one SLOT_MISSED with their number, 255 at most. A
step that is not forward raises and records nothing. R138: each new level, that of the landing minute and then that
of grade 1, that lifts the lamp hold has every lamp at its present level. That a new ms begins at the step is the
model's choice (log entry 8). -/
def Obligations.SetTimeStepsTheClock : Prop :=
  ∀ (t : Nat) (src : Byte) (p : List Byte) (day tod : Nat) (s : State), Hears t src s → Serves src s →
    parseSetTime p = some (day, tod) → tod < 86400000 →
    let new := day * 86400000 + tod + (11 * charUs s + 500) / 1000
    let old := clockMs { s with now := t }
    new < 36525 * 86400000 →
    ∃ u, exec (.setTime t src p) s = .next u ∧ clockMs u = new
      ∧ u.sck.clkAt = t ∧ u.sck.slew = 0 ∧ u.sck.slewTimer = none ∧ u.sck.grade = 1
      ∧ u.sck.ageTimer = some (t + 14400000000) ∧ u.sck.timeTimer = s.sck.timeTimer
      ∧ u.sck.entry = matchDay s.sck.calendar (new / 86400000)
      ∧ u.sck.level = levelAt (entryInForce u) 1 u.sck.quiet.isSome (new % 86400000 / 60000)
      ∧ u.csq = s.csq ∧ u.bel = s.bel ∧ u.fig = s.fig ∧ u.gtu = s.gtu ∧ u.zon = s.zon
      ∧ (let before := levelAt (entryInForce u) s.sck.grade u.sck.quiet.isSome (new % 86400000 / 60000)
        u.chr = { s.chr with lamps := lampsVia t before u.sck.level s })
      ∧ (new ≤ old → u.she = s.she ∧ u.flt = s.flt)
      ∧ (old < new → s.she.engine = .idle → let late := missedAtStep s.sck.slots old new
        u.she = sheAfterStep t old new (s.sck.grade ≤ 14 ∧ u.sck.level ≠ .closed) s
        ∧ u.flt = if late = [] then s.flt
            else (raiseFault .slotMissed (min late.length 255) { heardAt t src s with sck := u.sck }).flt)

/-! ## Service requests and faults (chapter 11) -/

/-- R173: a service request addressed to this station from a source outside the configured service set has no
effect but the ADVISORY SERVICE_DENIED with the source as detail; one addressed to others has none. -/
def Obligations.StrangersAreDenied : Prop :=
  ∀ (t : Nat) (src : Byte) (p : List Byte) (s : State), Hears t src s → ZonesAtRest s → ¬Serves src s →
    let denied : Host.Outcome State Fault Refusal := .next (raiseFault .serviceDenied src.toNat (heardAt t src s))
    (∀ x, parseSetTime p = some x → exec (.setTime t src p) s = denied)
    ∧ (∀ m g, parsePlayNow p = some (m, g) →
        exec (.playNow t src p) s = if Bits.mem m (ownNo s) then denied else .next (heardAt t src s))
    ∧ (∀ m g, parseQuietUntil p = some (m, g) →
        exec (.quietUntil t src p) s = if Bits.mem m (ownNo s) then denied else .next (heardAt t src s))
    ∧ (∀ n g, parseStatusQuery p = some (n, g) →
        exec (.statusQuery t src p) s = if s.iml.number = some n then denied else .next (heardAt t src s))
    ∧ ∀ m, parseRestart p = some m →
        exec (.restart t src p) s = if Bits.mem m (ownNo s) then denied else .next (heardAt t src s)

/-- R20, R174: an accepted PLAY_NOW at a station in IDLE raises a slot moment for slot 2047 that carries the
programme; the level need not be other than CLOSED. An accepted QUIET_UNTIL sets the override's end to the next start
of its minute, or clears the override (FFFFh), or leaves it (R6), and the level is worked again; where it lifts the
lamp hold every lamp shows its present level (R138). That the override's end is taken modulo the century is the
model's choice (log entry 12). -/
def Obligations.AcceptedPlayNowAndQuietUntil : Prop :=
  ∀ (t : Nat) (src : Byte) (p : List Byte) (m : Set32) (n : Nat) (s : State), Hears t src s → Serves src s →
    Bits.mem m (ownNo s) = true →
    (parsePlayNow p = some (m, n) → s.she.engine = .idle → s.iml.station = .inService → s.sck.grade ≤ 14 →
      exec (.playNow t src p) s = .next { heardAt t src s with
        she := { s.she with
          engine := .callWait
          pend := some ⟨2047, none, clockMs { s with now := t } / 86400000, some n,
            some (t + 10000 * ownNo s)⟩ } })
    ∧ (parseQuietUntil p = some (m, n) →
      let now := clockMs { s with now := t } / 60000
      let ends := if now % 1440 < n then now / 1440 * 1440 + n else now / 1440 * 1440 + n + 1440
      exec (.quietUntil t src p) s = .next (
        if 1440 ≤ n ∧ n ≠ 0xFFFF then heardAt t src s
        else
          let level := levelAt (entryInForce s) s.sck.grade (n ≠ 0xFFFF) (now % 1440)
          { heardAt t src s with
            chr := { s.chr with lamps := lampsAt t level s }
            sck := { s.sck with
              quiet := if n = 0xFFFF then none else some (ends % (36525 * 1440)), level := level } }))

/-- R174, R175: an accepted STATUS_QUERY for a page 0 to 10 queues a STATUS of that page's contents at a sending
station whose queue holds none; for another page it does nothing. R175, Table 8: what the pages hold. Page 0: station
state (80h more when muted), engine state, slot (FFFFh for none) and programme of the show (FFh for none), grade,
level, rail, the sets of jammed and of failed figures, the lowest programme marked bad (FFh for none), the records
listed, the peers PRESENT, the fault pin. Pages 1 and 2: the counters. Pages 3 to 10: a fault record, or zeros. That a
figure which homes after a jam may still count as jammed, by a free value, is the model's choice (log entry 17). R165,
R34: an accepted RESTART at a station not in a show, or in one that it has withdrawn from, makes the restart due at
once; in a show it withdraws first with reason RESTART (`withdrawnFrom`, shown for a station with no figure; in
SETTLING, the withdrawal flag clear, log entry 32) and waits for that WITHDRAW. -/
def Obligations.AcceptedQueryAndRestart : Prop :=
  (∀ s : State,
    let b := fun (n : Nat) => BitVec.ofNat 8 n
    (∃ jammed failed : Byte, pageContents s 0 = [
        b ((match s.iml.station with
          | .starting => 0
          | .listening => 1
          | .inService => 2
          | .stopped => 3) + if s.iml.muted then 0x80 else 0),
        b (match s.she.engine with
          | .idle => 0
          | .callWait => 1
          | .calling => 2
          | .answered => 3
          | .arming => 4
          | .gateWait => 5
          | .running => 6
          | .settling => 7),
        b ((s.she.showRec.map (·.slot)).getD 0xFFFF), b ((s.she.showRec.map (·.slot)).getD 0xFFFF / 256),
        b ((s.she.showRec.map (·.prog)).getD 0xFF), b s.sck.grade,
        b (match s.sck.level with
          | .closed => 0
          | .quiet => 1
          | .opened => 2),
        b (match s.chr.rail with
          | .normal => 0
          | .sag => 1
          | .cut => 2),
        jammed, failed,
        b (((List.range 32).find? fun p => (s.csq.directory.getD p DirEntry.absent).bad).getD 0xFF),
        b s.flt.list.length, b (s.bus.peers.filter fun p => decide (p ≠ .unknown ∧ p ≠ .silent)).length,
        if faultPin s then 1 else 0]
      ∧ (∀ f < 8, jammed.getLsbD f = true ↔ f < 7 ∧ ((figRun s f).state = .jammed
          ∨ ((figRun s f).state = .homing ∧ (∃ r, (figRun s f).run = some r ∧ r.fromJam = true)
            ∧ Config.jamConditionWhileHoming = true)))
      ∧ ∀ f < 8, failed.getLsbD f = true ↔ f < 7 ∧ (figRun s f).state = .failed)
    ∧ pageContents s 1 = ([s.bus.rxBroken, s.bus.rxCheck, s.bus.txCollision, s.flt.suppressed, s.flt.moveSkipped,
        s.gtu.stray] ++ s.flt.counters.take 8).map b
    ∧ pageContents s 2 = (s.flt.counters.drop 8).map b
    ∧ ∀ n < 8, pageContents s (3 + n) = match s.flt.list[n]? with
      | none => [0, 0, 0, 0, 0, 0, 0]
      | some r => [b (faultByte r.code), b (classByte (faultClass r.code)), b r.day, b (r.day / 256), b r.minute,
          b (r.minute / 256), b r.detail])
  ∧ ∀ (t : Nat) (src : Byte) (p : List Byte) (s : State), Hears t src s → ZonesAtRest s → Serves src s →
    (∀ n page, parseStatusQuery p = some (n, page) → s.iml.number = some n → Sends s →
      (∀ f ∈ s.bus.queue, ∀ n c, f.content ≠ .status n c) →
      exec (.statusQuery t src p) s = .next (if page ≤ 10 then
        queueFrame (.status page (pageContents (heardAt t src s) page)) (heardAt t src s)
        else heardAt t src s))
    ∧ ∀ m, parseRestart p = some m → Bits.mem m (ownNo s) = true → s.iml.restart = .none →
      let h := heardAt t src s
      let waits := fun (w : State) => ∃ f ∈ w.bus.queue, (∃ slot, f.content = .withdraw slot .restart)
        ∧ exec (.restart t src p) s = .next { w with iml := { w.iml with restart := .awaiting f.id } }
      (inShow s = false ∨ (∀ r, s.she.showRec = some r → r.withdrawn = true) →
        exec (.restart t src p) s = .next { h with iml := { s.iml with restart := .due } })
      ∧ ∀ r, s.she.showRec = some r → r.withdrawn = false → Sends s → s.bus.queue.length < 7 →
        (∀ f ∈ s.bus.queue, ∀ slot, f.content ≠ .withdraw slot .restart) →
        (s.she.engine ∈ [.arming, .gateWait, .running] → (∀ f, figRec s f = none) →
          waits (withdrawnFrom .restart h))
        ∧ (s.she.engine = .settling → waits { h with
          she := { s.she with showRec := some (r.left (ownNo s)) }, bus := h.bus.queued (.withdraw r.slot .restart)
          chr := { s.chr with lamps := s.chr.lamps.map fun _ => ⟨0, none⟩ } })

/-- R168 to R171: a fault raised puts a record with its code, detail, day and minute at the head of the list of
eight, raises an ADVISORY code's counter by 1 up to 255, and brings a FAULT frame where its class is reported
(STOP always, DEGRADED and ADVISORY by their masks) and the station sends and the queue has room. -/
def Obligations.FaultIsRecordedCountedAndReported : Prop :=
  ∀ (c : FaultCode) (d : Nat) (s : State), s.bus.queue.length < 8 →
    let reported := Sends s ∧ (faultClass c = .stop ∨ (faultClass c = .degraded ∧ s.flt.maskDegraded = true)
        ∨ (faultClass c = .advisory ∧ s.flt.maskAdvisory = true))
      ∧ ¬((c = .txDisplaced ∨ c = .txDropped) ∧ d = 0x40)
    let flt := { s.flt with
      list := (⟨c, d, dayNo s, minuteOfDay s⟩ :: s.flt.list).take 8
      counters := match advisoryIndex c with
        | some i => s.flt.counters.set i (min 255 (s.flt.counters.getD i 0 + 1))
        | none => s.flt.counters }
    (¬reported → raiseFault c d s = { s with flt := flt })
    ∧ (reported → raiseFault c d s = { s with
        flt := flt
        bus := { s.bus with
          queue := s.bus.queue ++ [⟨s.bus.nextId, .fault c d⟩], nextId := s.bus.nextId + 1 } })

/-! ## Frames heard (chapter 9) -/

/-- R170: the fault pin FLTO is on exactly while the station is STOPPED, or the setting "fault pin on degraded" is
yes and the rail is CUT, a figure is JAMMED or FAILED, or a programme is marked bad. That a figure which homes
after a jam may still count as jammed, by a free value, is the model's choice (log entry 17). -/
def Obligations.FaultPinFollowsItsCauses : Prop :=
  ∀ s : State, faultPin s = true ↔ s.iml.station = .stopped ∨ (s.flt.pinOnDegraded = true
    ∧ (s.chr.rail = .cut ∨ (∃ p < 32, (s.csq.directory.getD p DirEntry.absent).bad = true)
      ∨ ∃ f ≤ 6, (figRun s f).state = .jammed ∨ (figRun s f).state = .failed
        ∨ ((figRun s f).state = .homing ∧ (∃ r, (figRun s f).run = some r ∧ r.fromJam = true)
          ∧ Config.jamConditionWhileHoming = true)))

/-- R149, R157: FAULT, STATUS and frames of an unknown kind act on the peer table alone. R130, R11: a HELLO of
another station, no own request waiting: every zone HELD by or PENDING for its source becomes FREE, and a sending
station of grade 14 or better queues a TIME unless one waits. R36: in a show its source, if a participant, leaves
the participant set, and the gate in hand is checked (`withoutMember`; what a recomputed deadline that has passed
does is log entry 31). -/
def Obligations.FramesWithoutOwnerAndHelloAreTaken : Prop :=
  (∀ (t : Nat) (src kind : Byte) (p : List Byte) (s : State), Hears t src s →
    exec (.fault t src p) s = .next (heardAt t src s) ∧ exec (.status t src p) s = .next (heardAt t src s)
      ∧ exec (.unknownKindFrame t kind src p) s = .next (heardAt t src s))
  ∧ (∀ (t : Nat) (src : Byte) (p : List Byte) (s : State), Hears t src s → ZonesAtRest s → p.length = 1 →
    1 ≤ src.toNat → src.toNat ≤ 30 → s.zon.reqs = [] → s.bus.queue.length < 8 →
    let gone := fun u => if inShow s then withoutMember src.toNat u else u
    let s1 := { heardAt t src s with zon := { s.zon with
      view := s.zon.view.map fun e => match e with
        | .free => .free
        | .pending st g w f => if st = src.toNat then .free else .pending st g w f
        | .held st f => if st = src.toNat then .free else .held st f } }
    (Sends s → s.sck.grade ≤ 14 → (∀ f ∈ s.bus.queue, ∀ v, f.content ≠ .time v) →
      exec (.hello t src p) s = .next (gone { s1 with bus := { s1.bus with
        queue := s.bus.queue ++ [⟨s.bus.nextId, .time none⟩], nextId := s.bus.nextId + 1 } }))
    ∧ ((¬Sends s ∨ s.sck.grade = 15 ∨ ∃ f ∈ s.bus.queue, ∃ v, f.content = .time v) →
      exec (.hello t src p) s = .next (gone s1)))

/-- R114, R150, R172: a good frame of any kind (7Fh stands for the unknown kinds) that bears the station's own
number, the station having no attempt on the line, stops and mutes it: DUP_STATION on the fault list, the transmit
queue empty, and of every configured figure the motor off with the coast timer started, the run gone, the jam-homing
wait stopped, a figure in WAIT_ZONE, MOVING, PAUSED or HOMING now UNHOMED and any other as it was; zones held stay
held. -/
def Obligations.OwnNumberHeardStopsAndMutes : Prop :=
  ∀ (t : Nat) (src : Byte) (p : List Byte) (c : Instr) (s : State), Live t s → s.bus.rxOn = true →
    s.bus.tx ≠ .sending → s.iml.station ≠ .starting → s.iml.number = some src.toNat → s.bus.dup = false →
    c ∈ [.time t src p, .setTime t src p, .playNow t src p, .quietUntil t src p, .statusQuery t src p,
      .restart t src p, .hello t src p, .fault t src p, .status t src p, .unknownKindFrame t 0x7F src p,
      .call t src p, .menu t src p, .agree t src p, .withdraw t src p, .ready t src p, .go t src p,
      .claim t src p, .reassert t src p, .release t src p] →
    ∃ u, exec c s = .next u ∧ u.iml.station = .stopped ∧ u.iml.muted = true ∧ u.bus.dup = true
      ∧ u.bus.queue = [] ∧ u.bus.peers = s.bus.peers ∧ faultPin u = true
      ∧ ⟨.dupStation, src.toNat, dayNo { s with now := t }, minuteOfDay { s with now := t }⟩ ∈ u.flt.list
      ∧ (∀ f ≤ 6, f < s.fig.run.length → figRec s f ≠ none →
          (figRun u f).duty = 0 ∧ (figRun u f).coast = some (t + 200000) ∧ (figRun u f).run = none
          ∧ (figRun u f).jamWait = .none ∧ (figRun u f).pos = (figRun s f).pos
          ∧ (figRun u f).state = if (figRun s f).state ∈ [.waitZone, .moving, .paused, .homing] then .unhomed
              else (figRun s f).state)
      ∧ ∀ z st f, zoneAt s z = .held st f → zoneAt u z = .held st f

/-- R146, R148: a character heard joins the frame being assembled, begins one with its mark bit, or outside a
frame is passed over; the line's idle time counts from its end. The station's own characters on the line are not
assembled, and a receiver that is off takes none. R148, R122: a broken frame (a mark character in its midst and a
length above 24 break it too) and a frame whose check byte fails are discarded and counted up to 255, and every
own claim in its window is marked; a mark character begins the next frame; a break outside a frame is neither a
discard nor counted. The split between characters and broken frames is the model's (log entry 6). -/
def Obligations.CharactersJoinAndDiscardsAreCounted : Prop :=
  (∀ (t : Nat) (d : Byte) (mark : Bool) (s : State), Live t s →
    let a := s.bus.assembly
    let inFrame := a ≠ [] ∧ ¬(3 ≤ a.length ∧ a.length = byteAt a 2 + 4)
    let broken := s.bus.tx ≠ .sending ∧ inFrame ∧ (mark = true ∨ (a.length = 2 ∧ 24 < d.toNat))
    (s.bus.rxOn = false → exec (.characterReceived t d mark) s = .next { s with now := t })
    ∧ (s.bus.rxOn = true → ¬broken → exec (.characterReceived t d mark) s = .next { s with
        now := t
        bus := { s.bus with
          lastChar := t, idleFrom := t
          assembly := if s.bus.tx = .sending then a else if mark then [d] else if inFrame then a ++ [d] else [] } })
    ∧ (s.bus.rxOn = true → broken → ∃ marks, exec (.characterReceived t d mark) s = .next { s with
        now := t, zon := { s.zon with marks := marks }
        bus := { s.bus with
          lastChar := t, idleFrom := t, assembly := if mark then [d] else []
          rxBroken := min 255 (s.bus.rxBroken + 1) } }
        ∧ ∀ g, g ∈ marks ↔ g ∈ s.zon.marks ∨ ∃ w f, .pending (ownNo s) g (some w) f ∈ s.zon.view))
  ∧ (∀ (t : Nat) (s : State), Live t s → s.bus.rxOn = true → s.bus.tx ≠ .sending →
    (∀ (c : BreakCause), (∀ e, c ≠ .strayBreak e) →
      ∃ marks, exec (.frameBroken t c) s = .next { s with
        now := t, zon := { s.zon with marks := marks }
        bus := { s.bus with
          assembly := match c with
            | .newMark k => [k]
            | _ => []
          rxBroken := min 255 (s.bus.rxBroken + 1)
          lastChar := match c with
            | .lineBreak _ | .gap => s.bus.lastChar
            | _ => t
          idleFrom := match c with
            | .lineBreak e => max t e
            | .gap => s.bus.idleFrom
            | _ => t } }
        ∧ ∀ g, g ∈ marks ↔ g ∈ s.zon.marks ∨ ∃ w f, .pending (ownNo s) g (some w) f ∈ s.zon.view)
    ∧ (∃ marks, exec (.frameCheckFail t) s = .next { s with
        now := t, zon := { s.zon with marks := marks }
        bus := { s.bus with
          assembly := [], rxCheck := min 255 (s.bus.rxCheck + 1), lastChar := t, idleFrom := t } }
        ∧ ∀ g, g ∈ marks ↔ g ∈ s.zon.marks ∨ ∃ w f, .pending (ownNo s) g (some w) f ∈ s.zon.view)
    ∧ ∀ e, exec (.frameBroken t (.strayBreak e)) s =
        .next { s with now := t, bus := { s.bus with idleFrom := max t e } })

/-! ## Sending (chapter 9) -/

/-- R151, R154: the transmitter, on and IDLE, begins the first attempt of the chosen frame once the line has been
idle for the frame's access gap (class gap 2, 4 or 6 and the number mod 4, in character times), a TIME taking its
values now. FIXED order chooses the oldest frame of the highest class queued; ROTATING that of the first class
queued in the order urgent, show, routine and round again after the class taken last, and notes its class. In
RETRY_WAIT the frame in transmission is attempted again once the line has been idle for its gap and 2 character
times for each of its failures. Before the gap nothing happens. A frame still being assembled as an attempt begins
is broken by its gap; that it is counted at that moment is the model's reading (log entry 6). -/
def Obligations.FirstAttemptBeginsAfterItsGap : Prop :=
  ∀ (t : Nat) (f : TxFrame) (s : State), Live t s → Sends s → s.bus.dup = false →
    let inFrame := s.bus.assembly ≠ [] ∧ ¬(3 ≤ s.bus.assembly.length
      ∧ s.bus.assembly.length = byteAt s.bus.assembly 2 + 4)
    let gap := fun fails => ((match frameClass f.content with
        | .urgent => 2
        | .showClass => 4
        | .routine => 6) + ownNo s % 4 + 2 * fails) * (if s.bus.fast then 44 else 176)
    let begins := fun fails cls => ∃ marks, exec (.attemptStart t) s = .next { s with
        now := t, zon := { s.zon with marks := marks }
        bus := { s.bus with
          tx := .sending, current := some f.id, fails := fails, pointer := cls, attemptAt := t, assembly := []
          rxBroken := if inFrame then min 255 (s.bus.rxBroken + 1) else s.bus.rxBroken
          queue := s.bus.queue.map fun g => if g.id = f.id ∧ isTime g.content then
            { g with content := .time (some (s.sck.grade, clockMs { s with now := t })) } else g } }
        ∧ ∀ g, g ∈ marks ↔ g ∈ s.zon.marks ∨ (inFrame ∧ ∃ w f, .pending (ownNo s) g (some w) f ∈ s.zon.view)
    let judged := fun fails cls => (gap fails ≤ t - s.bus.idleFrom → begins fails cls)
      ∧ (t - s.bus.idleFrom < gap fails → exec (.attemptStart t) s = .next { s with now := t })
    let rank := fun c => classRank c
    let turn := fun c => (rank s.bus.pointer + 2 - rank c) % 3
    (∀ l r, s.bus.tx = .idle → s.bus.rotating = false → s.bus.queue = l ++ f :: r →
      (∀ g ∈ l, rank (frameClass g.content) < rank (frameClass f.content)) →
      (∀ g ∈ r, rank (frameClass g.content) ≤ rank (frameClass f.content)) → judged 0 s.bus.pointer)
    ∧ (∀ l r, s.bus.tx = .idle → s.bus.rotating = true → s.bus.queue = l ++ f :: r →
      (∀ g ∈ l, turn (frameClass f.content) < turn (frameClass g.content)) →
      (∀ g ∈ r, turn (frameClass f.content) ≤ turn (frameClass g.content)) → judged 0 (frameClass f.content))
    ∧ (s.bus.tx = .retryWait → currentFrame s = some f → judged s.bus.fails s.bus.pointer)

/-- R152: a mismatch in an attempt is counted and answered with a break of 12 bit times. After a first, second
or third failure the transmitter comes to RETRY_WAIT at the break's end, from which the line's idle time counts
(R146: or from the end of another station's break that outlasts it); a frame that fails the fourth time
leaves the queue with TX_DROPPED and its kind, its owner acting on the loss (R153: `onLoss`, which does nothing for a
routine frame but HELLO and is shown in `Obligations.FullQueueDisplacesTheLowestClass`), and the transmitter comes to
IDLE. R152: an attempt whose every character has been read back ends the frame: it leaves
the queue, the transmitter is IDLE, the line idle from now. A HELLO read back clears HELLO pending (R164). -/
def Obligations.AttemptEndsSentBrokenOrDropped : Prop :=
  ((∀ (t : Nat) (f : TxFrame) (s : State), Live t s → s.bus.tx = .sending → currentFrame s = some f →
    let broken := fun retry => { s with
      now := t
      bus := { s.bus with
        tx := .breaking (t + if s.bus.fast then 48 else 192) retry, fails := s.bus.fails + 1
        txCollision := min 255 (s.bus.txCollision + 1) } }
    (s.bus.fails ≤ 2 → exec (.collision t) s = .next (broken true))
    ∧ (3 ≤ s.bus.fails →
      let dropped := raiseFault .txDropped (kindByte f.content) { broken false with
        bus := { (broken false).bus with
          queue := s.bus.queue.filter (fun g => g.id != f.id), current := none, fails := 0 } }
      exec (.collision t) s = .next (onLoss f dropped)
      ∧ (frameClass f.content = .routine → (∀ r, f.content ≠ .hello r) →
        exec (.collision t) s = .next dropped)))
  ∧ ∀ (t e : Nat) (retry : Bool) (s : State), Live t s → s.bus.tx = .breaking e retry → e ≤ t →
    exec (.breakEnd t) s = .next { s with
      now := t, bus := { s.bus with
        tx := if retry then .retryWait else .idle, idleFrom := max s.bus.idleFrom e } })
  ∧ (∀ (t : Nat) (f : TxFrame) (s : State), Live t s → ZonesAtRest s → s.bus.tx = .sending →
    currentFrame s = some f → s.bus.attemptAt + frameChars f.content * (if s.bus.fast then 44 else 176) ≤ t →
    frameClass f.content = .routine →
    exec (.frameSent t) s = .next { s with
      now := t
      iml := match f.content with
        | .hello _ => { s.iml with helloPending := false, helloLost := none }
        | _ => s.iml
      bus := { s.bus with
        tx := .idle, current := none, fails := 0, assembly := [], lastChar := t, idleFrom := t
        frameEnds := s.bus.frameEnds + 1, queue := s.bus.queue.filter fun g => g.id != f.id } })

/-- R43, R128, R164: a READY, a RELEASE, a HELLO lost to the queue is queued again once a frame has ended on the
line since; the RELEASE with the zones still releasing. -/
def Obligations.LostFramesAreQueuedAgain : Prop :=
  ∀ (t n : Nat) (s : State), Live t s → n < s.bus.frameEnds → s.bus.queue.length < 8 →
    let again := fun c => { s.bus with queue := s.bus.queue ++ [⟨s.bus.nextId, c⟩], nextId := s.bus.nextId + 1 }
    (∀ g, s.gtu.gate = some g → g.phase = .readyQueued → g.readyLost = some n →
      exec (.readyRequeue t) s = .next { s with
        now := t, bus := again (.ready ((s.she.showRec.map (·.slot)).getD 0) (g.number.getD 0))
        gtu := { s.gtu with gate := some { g with readyFrame := some s.bus.nextId, readyLost := none } } })
    ∧ (∀ zones still, s.zon.releaseLost = [(n, zones)] →
      still = (Bits.toList zones).filter (fun z => zoneAt s z == .held (ownNo s) none) → still ≠ [] →
      exec (.releaseRequeue t) s = .next { s with
        now := t, bus := again (.release (Bits.ofList 64 still)), zon := { s.zon with releaseLost := [] } })
    ∧ (s.iml.helloPending = true → s.iml.helloLost = some n → Sends s →
      exec (.helloRequeue t) s = .next { s with
        now := t, bus := again (.hello s.iml.role), iml := { s.iml with helloLost := none } })

/-- R156: a frame that finds eight in the queue takes the place of the youngest frame of the lowest class there
that is not in transmission, if that class is lower than its own; else it is refused and the queue stays as it
was. R153, R156: the frame displaced or refused is lost: its owner acts, and TX_DISPLACED is recorded with its kind. A
lost CALL (R22) or AGREE (R29) brings the caller to IDLE with SLOT_LOST and its own number, the AGREE's slot written
into the last-slot record; a lost MENU (R24) brings IDLE with SLOT_LOST and the caller's number. A lost READY (R43),
RELEASE (R128) or HELLO that is pending (R164) is noted, to be queued again at the next frame end. A lost GO has the
gate timer start again with 100 ms (R48). A lost CLAIM (R121) has its zones FREE, its request waiting at the head of
the list, and the list tried at the next frame end only. Of any other frame, and of one that its owner has given up,
the loss does nothing. That a frame which displaces another is entered before the loss is reported is the model's
reading (log entry 15). -/
def Obligations.FullQueueDisplacesTheLowestClass : Prop :=
  (∀ (cur : Option Nat) (q : List TxFrame) (f : TxFrame), q.length = 8 → (q.map (·.id)).Nodup →
    let rank := fun (g : TxFrame) => classRank (frameClass g.content)
    ((∃ g ∈ q, cur ≠ some g.id ∧ rank g < rank f) →
      ∃ l v r, q = l ++ v :: r ∧ queueEntry cur q f = (l ++ r ++ [f], some v) ∧ cur ≠ some v.id
        ∧ (∀ g ∈ q, cur ≠ some g.id → rank v ≤ rank g) ∧ ∀ g ∈ r, cur ≠ some g.id → rank g ≠ rank v)
    ∧ ((∀ g ∈ q, cur ≠ some g.id → rank f ≤ rank g) → queueEntry cur q f = (q, some f)))
  ∧ (∀ (c : Content) (s : State),
    let r := queueEntry s.bus.current s.bus.queue ⟨s.bus.nextId, c⟩
    let u := { s with bus := { s.bus with queue := r.1, nextId := s.bus.nextId + 1 } }
    queueFrame c s = match r.2 with
      | none => u
      | some v => raiseFault .txDisplaced (kindByte v.content) (onLoss v u))
  ∧ ∀ (f : TxFrame) (s : State), onLoss f s = match f.content with
    | .call _ _ _ _ =>
      if s.she.engine = .calling ∧ (∃ g, s.she.gather = some g ∧ g.callFrame = f.id) then
        raiseFault .slotLost (ownNo s) (idleAt s.now s) else s
    | .menu _ _ _ => match s.she.answer with
      | some a =>
        if s.she.engine = .answered ∧ a.menuFrame = f.id then raiseFault .slotLost a.caller (idleAt s.now s) else s
      | none => s
    | .agree _ _ _ _ _ => match s.she.gather, s.she.pend with
      | some g, some p =>
        if s.she.engine = .calling ∧ g.agree.map (·.frame) = some f.id then
          raiseFault .slotLost (ownNo s) { idleAt s.now s with sck := s.sck.dealt g.slot p.day } else s
      | _, _ => s
    | .ready _ _ => match s.gtu.gate with
      | some g =>
        if g.phase = .readyQueued ∧ g.readyFrame = some f.id then { s with gtu := { s.gtu with
          gate := some { g with readyFrame := none, readyLost := some s.bus.frameEnds } } } else s
      | none => s
    | .go _ _ _ => match s.gtu.gate with
      | some g =>
        if g.phase = .ready ∧ g.goFrame = some f.id then { s with gtu := { s.gtu with
          gate := some { g with goFrame := none, timer := some (s.now + 100000) } } } else s
      | none => s
    | .claim false _ => { s with zon := { s.zon with
        reqs := backToHead f.id s.zon.reqs, claimRetry := some s.bus.frameEnds
        view := s.zon.view.map fun e => match e with
          | .pending st g w k => if st = ownNo s ∧ g = f.id then .free else .pending st g w k
          | _ => e } }
    | .release zones => { s with zon := { s.zon with releaseLost := s.zon.releaseLost ++ [(s.bus.frameEnds, zones)] } }
    | .hello _ =>
      if s.iml.helloPending then { s with iml := { s.iml with helloLost := some s.bus.frameEnds } } else s
    | _ => s

/-! ## Programme agreement (chapter 2) -/

/-- R18: the programmes of the menu: 0 always; another where its directory entry is present and not marked bad,
every required figure is configured and PARKED, every required bell is configured and enabled and (if it needs
any) the rail is not CUT, and it is quiet-fit unless the level is OPEN. -/
def Obligations.MenuIsWhatTheStationCanPlay : Prop :=
  ∀ (p : Nat) (s : State), p < 32 →
    let e := s.csq.directory.getD p DirEntry.absent
    (Bits.mem (menuOf s) p = true ↔ p = 0 ∨
      (e.present = true ∧ e.bad = false
        ∧ (∀ f < 8, Bits.mem e.figures f = true → figRec s f ≠ none ∧ (figRun s f).state = .parked)
        ∧ (∀ b < 16, Bits.mem e.bells b = true → ∃ c, bellRec s b = some c ∧ c.enabled = true)
        ∧ (e.bells = 0 ∨ s.chr.rail ≠ .cut) ∧ (s.sck.level = .opened ∨ e.quietFit = true)))

/-- R21: at the call delay's expiry in CALL_WAIT a station that still meets the conditions of R20 queues its
CALL (slot, preferred programme, menu, level) and enters CALLING; one that does not returns to IDLE without a
fault or a last-slot record. -/
def Obligations.CallDelayQueuesTheCall : Prop :=
  ∀ (t e : Nat) (p : PendingSlot) (s : State), Live t s → s.she.engine = .callWait → s.she.pend = some p →
    p.delay = some e → e ≤ t → s.bus.queue.length < 8 →
    let ok := s.iml.station = .inService ∧ s.sck.grade ≤ 14 ∧ (s.sck.level ≠ .closed ∨ p.slot = 2047)
    let pref := match p.requested, entryInForce s, p.kind with
      | some r, _, _ => r
      | none, some e, some .hour => e.prefHour
      | none, some e, some .other => e.prefOther
      | none, _, _ => 0
    (ok → exec (.callDelayExpiry t) s = .next { s with
      now := t, bus := s.bus.queued (.call p.slot pref (menuOf s) s.sck.level)
      she := { s.she with
        engine := .calling, pend := some { p with delay := none }
        gather := some ⟨s.bus.nextId, p.slot, pref, menuOf s, s.sck.level, none, [], none⟩ } })
    ∧ (¬ok → exec (.callDelayExpiry t) s = .next (idleAt t s))

/-- R23, R24: a CALL heard in IDLE, or in CALL_WAIT for the pending slot, is answered where acceptable: a MENU
to its caller is queued and the engine is ANSWERED, the day of the slot kept. In CALL_WAIT for another slot the
pending one is skipped first (SLOT_SKIPPED, 255). A CALL that is not acceptable there changes nothing, and so does
one heard in a show. A CALL for slot 2047 is acceptable at every station IN_SERVICE; one for another slot where the
grade is 15 or the slot's moment lies within 30 s of the own time, the last-slot record is not that slot of that
day, and the level is not CLOSED. The day is the one whose moment lies nearest (R10), the own day for slot 2047;
where two lie equally near it is left open (log entry 10). R22, R25: in CALLING a CALL for the own slot is answered
while the own CALL is queued, from any caller; later from a lower caller only, the queued AGREE removed. R26: in
ANSWERED a lower caller for the answered slot gets a fresh MENU, the one still queued removed and the wait stopped.
Any other CALL in these two states is ignored. -/
def Obligations.AcceptableCallIsAnswered : Prop :=
  ∀ (t : Nat) (src : Byte) (p : List Byte) (c : CallIn) (s : State), Hears t src s → parseCall p = some c →
    1 ≤ src.toNat → src.toNat ≤ 30 →
    let h := heardAt t src s
    let clock := clockMs { s with now := t }
    let moment := c.slot * 60000
    let answered := fun (u : State) => queueFrame (.menu c.slot src.toNat (menuOf u)) { u with
      she := { u.she with
        engine := .answered, pend := none, gather := none
        answer := some ⟨c.slot, callDay h c.slot, src.toNat, u.bus.nextId, none⟩ } }
    (c.slot = 2047 → callDay h c.slot = clock / 86400000
      ∧ (callAcceptable h c.slot = true ↔ s.iml.station = .inService))
    ∧ (c.slot < 1440 → (∀ d < 36525, ((d * 86400000 + moment : Nat) - (clock : Int)).natAbs < 43200000 →
        callDay h c.slot = d)
      ∧ (callAcceptable h c.slot = true ↔ s.iml.station = .inService
        ∧ (s.sck.grade = 15 ∨
          let far := (moment - clock % 86400000) + (clock % 86400000 - moment)
          min far (86400000 - far) ≤ 30000)
        ∧ s.sck.lastSlot ≠ some (c.slot, callDay h c.slot) ∧ s.sck.level ≠ .closed))
    ∧ (callAcceptable h c.slot = true →
      (s.she.engine = .idle ∨ (s.she.engine = .callWait ∧ s.she.pend.map (·.slot) = some c.slot)) →
      exec (.call t src p) s = .next (answered h))
    ∧ (callAcceptable h c.slot = true → s.she.engine = .callWait → s.she.pend.map (·.slot) ≠ some c.slot →
      exec (.call t src p) s = .next (answered (raiseFault .slotSkipped 255 h)))
    ∧ ((inShow s = true ∨ (callAcceptable h c.slot = false ∧ s.she.engine ∈ [.idle, .callWait])) →
      exec (.call t src p) s = .next h)
    ∧ (∀ g, s.she.engine = .calling → s.she.gather = some g →
      (g.slot ≠ c.slot → exec (.call t src p) s = .next h)
      ∧ (g.slot = c.slot → g.window = none → g.agree = none →
        exec (.call t src p) s = .next (answered (removeFrame g.callFrame h)))
      ∧ (g.slot = c.slot → (g.window ≠ none ∨ g.agree ≠ none) → ownNo s ≤ src.toNat →
        exec (.call t src p) s = .next h)
      ∧ (g.slot = c.slot → g.window ≠ none → src.toNat < ownNo s → exec (.call t src p) s = .next (answered h))
      ∧ ∀ a, g.slot = c.slot → g.window = none → g.agree = some a → src.toNat < ownNo s →
        exec (.call t src p) s = .next (answered (removeFrame a.frame h)))
    ∧ ∀ a, s.she.engine = .answered → s.she.answer = some a →
      ((a.slot ≠ c.slot ∨ a.caller ≤ src.toNat) → exec (.call t src p) s = .next h)
      ∧ (a.slot = c.slot → src.toNat < a.caller → exec (.call t src p) s = .next (
        queueFrame (.menu c.slot src.toNat (menuOf h)) { removeFrame a.menuFrame h with
          she := { s.she with answer := some { a with
            caller := src.toNat, menuFrame := s.bus.nextId, wait := none } } }))

/-- R22, R24: the readback of the own CALL starts the gather window of 400 ms, that of the own MENU the AGREE
wait of 1,000 ms, each from the end of the frame. R30, R32: at the readback of its AGREE a station able to play the
programme enters ARMING, gate 0 open with the 1,500 ms lead-in (shown for programmes 1 to 31), the lamp hold lifted
for slot 2047 (R138); one able no longer
withdraws (MENU_CHANGED), the slot recorded, and is IDLE. R43, R45, R47: that of its READY puts the own number in
the ready set, in phase READY; the gate is released where every participant is ready, else the deadline of the gate
timer is worked out. R48, R49: its GO is taken as one heard: the set shrinks to the GO's, each other station dropped
recorded, in ascending order (the model's choice, log entry 14), the gate released; a GO for a gate no longer in hand
or already released does nothing. R121: that of its CLAIM starts the 30 ms window of the zones still PENDING for it.
R128: its RELEASE frees the zones still releasing, and the list is tried, at the end of the step (the model's choice,
log entry 13). R24: the AGREE wait's expiry in ANSWERED: IDLE, the slot written into the last-slot record, SLOT_LOST
with the caller as detail. -/
def Obligations.ReadbacksStartTimersAndTheWaitEnds : Prop :=
  (∀ (t : Nat) (f : TxFrame) (s : State), Live t s → ZonesAtRest s → s.bus.tx = .sending →
    currentFrame s = some f → s.bus.attemptAt + frameChars f.content * (if s.bus.fast then 44 else 176) ≤ t →
    let u := { s with now := t, bus := { s.bus with
      tx := .idle, current := none, fails := 0, assembly := [], lastChar := t, idleFrom := t
      frameEnds := s.bus.frameEnds + 1, queue := s.bus.queue.filter fun g => g.id != f.id } }
    (∀ a b c d g, f.content = .call a b c d → s.she.engine = .calling → s.she.gather = some g →
      g.callFrame = f.id → g.window = none → g.agree = none →
      exec (.frameSent t) s = .next { u with
        she := { s.she with gather := some { g with window := some (t + 400000) } } })
    ∧ (∀ a b c g, f.content = .menu a b c → s.she.engine = .answered → s.she.answer = some g →
      g.menuFrame = f.id →
      exec (.frameSent t) s = .next { u with
        she := { s.she with answer := some { g with wait := some (t + 1000000) } } })
    ∧ (∀ a b c d m g k x, f.content = .agree a b c d m → s.she.engine = .calling → s.she.gather = some g →
      s.she.pend = some k → g.agree = some x → x.frame = f.id →
      (Bits.mem (menuOf u) x.prog = true → x.prog ≠ 0 → exec (.frameSent t) s = .next { u with
        sck := s.sck.dealt g.slot k.day
        chr := { s.chr with
          lamps := if s.sck.level = .closed ∧ g.slot = 2047 then lampsWorked t s else s.chr.lamps }
        she := ⟨.arming, none, none, none, some ⟨g.slot, k.day, x.prog, x.level, x.hour, x.members, false⟩⟩
        gtu := { s.gtu with
          gate := some ⟨some 0, .standing, 0, some (t + 1500000), 0, none, none, none, none, none⟩ }
        csq := { s.csq with
          parts := none, builtin := false, slotA := CueSlot.vacant, slotB := CueSlot.vacant
          play := Cursor.nowhere, lead := Cursor.nowhere, running := false, tau := 0, gatesDone := []
          gateAfter := none, gateTick := 0, nextMark := 0, wakeups := [], underruns := []
          port := [⟨.header, (s.csq.directory.getD x.prog DirEntry.absent).addr, 1, t⟩] } })
      ∧ (Bits.mem (menuOf u) x.prog = false → s.bus.queue.length < 8 →
        let v := removeFrames (isTalkOf g.slot) u
        exec (.frameSent t) s = .next (idleAt t (raiseFault .withdrawn x.prog { v with
          sck := s.sck.dealt g.slot k.day, bus := v.bus.queued (.withdraw g.slot .menuChanged) }))))
    ∧ (∀ slot n g r, f.content = .ready slot n → s.gtu.gate = some g → s.she.showRec = some r →
      g.phase = .readyQueued → g.readyFrame = some f.id →
      let ready := Bits.insert g.readySet (ownNo s)
      exec (.frameSent t) s = .next (
        if Bits.subset r.members ready then
          { (match g.goFrame with
            | some id => removeFrame id u
            | none => u) with gtu := { s.gtu with gate := some ({ g with readyMoment := t }.released t) } }
        else { u with gtu := { s.gtu with gate := some { g with
          phase := .ready, readySet := ready, readyMoment := t, readyFrame := none
          timer := some (t + s.gtu.limit * 1000000 + (gateRank (ownNo s) ready r.members - 1) * 100000) } } }))
    ∧ (∀ slot n m g r, f.content = .go slot n m → s.gtu.gate = some g → s.she.showRec = some r →
      let taken := g.phase ≠ .released ∧ slot = r.slot ∧ g.number = some n ∧ Bits.mem r.members (ownNo s) = true
      let v := ((List.range 32).filter fun n => Bits.mem r.members n && !Bits.mem m n && n != ownNo s).foldl
        (fun v n => raiseFault .gateExcludedPeer n v)
        { u with she := { s.she with showRec := some { r with members := r.members &&& m } } }
      (¬taken → exec (.frameSent t) s = .next u)
      ∧ (taken → g.phase = .ready → Bits.mem m (ownNo s) = true → exec (.frameSent t) s = .next {
        (match g.goFrame with
          | some id => removeFrame id v
          | none => v) with gtu := { s.gtu with gate := some (g.released t) } }))
    ∧ (∀ zones z w k, f.content = .claim false zones → zoneAt s z = .pending (ownNo s) f.id w k →
      exec (.frameSent t) s = .next { u with zon := { s.zon with view := s.zon.view.map fun e => match e with
        | .pending st g w k =>
          if st = ownNo s ∧ g = f.id then .pending st g (some (t + 30000)) k else .pending st g w k
        | _ => e } })
    ∧ (∀ zones, f.content = .release zones → exec (.frameSent t) s = .next (settleZones trialFuel { u with
      zon := { s.zon with
        trialDue := true
        view := s.zon.view.mapIdx fun z e =>
          if Bits.mem zones z ∧ e = .held (ownNo s) none then .free else e } })))
  ∧ (∀ (t e : Nat) (a : AnswerRec) (s : State), Live t s → s.she.engine = .answered → s.she.answer = some a →
    a.wait = some e → e ≤ t →
    exec (.agreeWaitExpiry t) s =
      .next (raiseFault .slotLost a.caller { idleAt t s with sck := s.sck.dealt a.slot a.day }))

/-- R27: in CALLING, the window running, a MENU that names this station and its slot is recorded, one for each
source; any other is ignored. -/
def Obligations.MenuIsRecordedInTheWindow : Prop :=
  ∀ (t : Nat) (src : Byte) (p : List Byte) (m : MenuIn) (g : Gather) (s : State), Hears t src s →
    parseMenu p = some m → s.she.gather = some g →
    let taken := s.she.engine = .calling ∧ g.window ≠ none ∧ 1 ≤ src.toNat ∧ src.toNat ≤ 30
      ∧ m.caller = ownNo s ∧ m.slot = g.slot
    (taken → exec (.menu t src p) s = .next { heardAt t src s with she := { s.she with
      gather := some { g with
        answers := g.answers.filter (fun x => x.1 != src.toNat) ++ [(src.toNat, m.menu)] } } })
    ∧ (¬taken → exec (.menu t src p) s = .next (heardAt t src s))

/-- R28, R29: when the window ends the caller chooses among the programmes common to its menu and every recorded
one and allowed by the entry in force (the requested one for slot 2047), or 0: the preferred one if it is among
them, else that of highest rank (programme 0's is 0), the lower number first; and queues an AGREE that names
itself and every station that answered. -/
def Obligations.WindowEndChoosesTheProgramme : Prop :=
  ∀ (t e : Nat) (p : PendingSlot) (g : Gather) (s : State), Live t s → s.she.engine = .calling →
    s.she.pend = some p → s.she.gather = some g → g.window = some e → e ≤ t → s.bus.queue.length < 8 →
    let allowed : Nat → Bool := fun q => q == 0 || match p.requested with
      | some r => q == r
      | none => match entryInForce s with
        | some e => Bits.mem e.allowed q
        | none => false
    let cand : Nat → Prop := fun q => q < 32 ∧ Bits.mem g.menu q = true ∧ allowed q = true
      ∧ ∀ a ∈ g.answers, Bits.mem a.2 q = true
    let rank : Nat → Nat := fun q => if q = 0 then 0 else (s.csq.directory.getD q DirEntry.absent).rank
    cand 0 → ∃ q, cand q ∧ (cand g.pref → q = g.pref)
      ∧ (¬cand g.pref → ∀ r, cand r → rank r < rank q ∨ (rank r = rank q ∧ q ≤ r))
      ∧ exec (.windowTimerExpiry t) s =
        let h := (if g.slot = 2047 then minuteOfDay { s with now := t } / 60 else g.slot / 60) % 12
        let level : Level := if g.level = .opened then .opened else .quiet
        let members : Set32 := Bits.ofList 32 (ownNo s :: g.answers.map (·.1))
        .next { s with
          now := t, bus := s.bus.queued (.agree g.slot q level (if h = 0 then 12 else h) members)
          she := { s.she with gather := some { g with
            window := none, agree := some ⟨s.bus.nextId, q, level, if h = 0 then 12 else h, members⟩ } } }

/-- R31, R32, R40: an AGREE for the answered slot. Named and able to play, the station enters ARMING with the agreed
show record, gate 0 open with the 1,500 ms lead-in, the slot in the last-slot record, and the read of the programme
header queued (programme 1 to 31), the lamp hold lifted for slot 2047 (R138). Named and able to play no longer, it
does not arm: its own frames for the slot leave the queue, a WITHDRAW with MENU_CHANGED is queued, the slot recorded,
WITHDRAWN raised with the programme, and the engine IDLE. Not named, it records NOT_INCLUDED and the slot and is
IDLE. R31: an AGREE that names a station in IDLE is answered with a WITHDRAW, NOT_ARMED, and its slot recorded,
unless the last-slot record holds it already; the day is that of R10 (log entry 10). That no frame of its own is
removed there is the model's choice (log entry 37). One that does not name it is ignored. -/
def Obligations.AgreeArmsOrLeavesOut : Prop :=
  ∀ (t : Nat) (src : Byte) (p : List Byte) (x : AgreeIn) (s : State), Hears t src s → parseAgree p = some x →
    1 ≤ src.toNat → src.toNat ≤ 30 →
    let h := heardAt t src s
    (∀ a, s.she.engine = .answered → s.she.answer = some a → a.slot = x.slot →
      (Bits.mem x.members (ownNo s) = true → Bits.mem (menuOf h) x.prog = true → x.prog ≠ 0 →
        exec (.agree t src p) s = .next { h with
          sck := s.sck.dealt x.slot a.day
          chr := { s.chr with
            lamps := if s.sck.level = .closed ∧ x.slot = 2047 then lampsWorked t s else s.chr.lamps }
          she := ⟨.arming, none, none, none, some ⟨x.slot, a.day, x.prog, x.level, x.hour, x.members, false⟩⟩
          gtu := { s.gtu with
            gate := some ⟨some 0, .standing, 0, some (t + 1500000), 0, none, none, none, none, none⟩ }
          csq := { s.csq with
            parts := none, builtin := false, slotA := CueSlot.vacant, slotB := CueSlot.vacant
            play := Cursor.nowhere, lead := Cursor.nowhere, running := false, tau := 0, gatesDone := []
            gateAfter := none, gateTick := 0, nextMark := 0, wakeups := [], underruns := []
            port := [⟨.header, (s.csq.directory.getD x.prog DirEntry.absent).addr, 1, t⟩] } })
      ∧ (Bits.mem x.members (ownNo s) = true → Bits.mem (menuOf h) x.prog = false → s.bus.queue.length < 8 →
        let u := removeFrames (isTalkOf x.slot) h
        exec (.agree t src p) s = .next (idleAt t (raiseFault .withdrawn x.prog { u with
          sck := s.sck.dealt x.slot a.day, bus := u.bus.queued (.withdraw x.slot .menuChanged) })))
      ∧ (Bits.mem x.members (ownNo s) = false →
        exec (.agree t src p) s = .next (raiseFault .notIncluded src.toNat
          { removeFrames (isTalkOf x.slot) (idleAt t h) with sck := s.sck.dealt x.slot a.day })))
    ∧ (s.she.engine = .idle →
      let last := x.slot ≠ 2047 ∧ s.sck.lastSlot = some (x.slot, nearestDay h x.slot)
      ((Bits.mem x.members (ownNo s) = false ∨ last) → exec (.agree t src p) s = .next h)
      ∧ (Bits.mem x.members (ownNo s) = true → ¬last → Sends s → s.bus.queue.length < 8 →
        exec (.agree t src p) s = .next { h with
          sck := s.sck.dealt x.slot (callDay h x.slot), bus := h.bus.queued (.withdraw x.slot .notArmed) }))

/-- R35: a WITHDRAW of a participant for the show's slot takes its source out of the participant set, and the
gate in hand is checked: in phase READY it is released if every remaining participant is ready, or its deadline
is worked out again (R47). That a deadline worked again which has passed, or a gate timer that waits out a lost GO,
is set to it and not expired at once is the model's choice (log entry 31). Any other WITHDRAW is ignored, and the
own one read back changes nothing further. -/
def Obligations.WithdrawTakesOutTheMember : Prop :=
  (∀ (t : Nat) (src : Byte) (p : List Byte) (slot : Nat) (s : State), Hears t src s →
    parseWithdraw p = some slot →
    let h := heardAt t src s
    let taken := 1 ≤ src.toNat ∧ src.toNat ≤ 30 ∧ inShow s = true
      ∧ ∃ r, s.she.showRec = some r ∧ r.slot = slot ∧ Bits.mem r.members src.toNat = true
    (¬taken → exec (.withdraw t src p) s = .next h)
    ∧ ∀ r m, taken → s.she.showRec = some r → m = Bits.erase r.members src.toNat →
      let u := { h with she := { s.she with showRec := some { r with members := m } } }
      (∀ g, s.gtu.gate ≠ some g ∨ g.phase ≠ .ready) ∧ exec (.withdraw t src p) s = .next u
      ∨ ∃ g, s.gtu.gate = some g ∧ g.phase = .ready ∧ exec (.withdraw t src p) s = .next (
        if Bits.subset m g.readySet then
          { (match g.goFrame with
            | some id => removeFrame id u
            | none => u) with gtu := { s.gtu with gate := some (g.released t) } }
        else { u with gtu := { s.gtu with gate := some { g with
          timer := g.timer.map fun _ => g.readyMoment + s.gtu.limit * 1000000
            + (gateRank (ownNo s) g.readySet m - 1) * 100000 } } }))
  ∧ ∀ (t : Nat) (f : TxFrame) (slot : Nat) (why : Reason) (s : State), Live t s → ZonesAtRest s →
    s.bus.tx = .sending → currentFrame s = some f → f.content = .withdraw slot why →
    s.bus.attemptAt + 7 * (if s.bus.fast then 44 else 176) ≤ t →
    exec (.frameSent t) s = .next { s with now := t, bus := { s.bus with
      tx := .idle, current := none, fails := 0, assembly := [], lastChar := t, idleFrom := t
      frameEnds := s.bus.frameEnds + 1, queue := s.bus.queue.filter fun g => g.id != f.id } }

/-- R37: in SETTLING, the strike list empty, every damper DOWN and no figure in WAIT_ZONE, MOVING, PAUSED or
HOMING, the show record is discarded and the engine is IDLE; while one of these fails it stays. -/
def Obligations.SettledShowEndsInIdle : Prop :=
  ∀ (t : Nat) (s : State), Live t s → s.she.engine = .settling →
    let rest := s.bel.strikes = [] ∧ (∀ r ∈ s.bel.run, r.damper = .down)
      ∧ ∀ r ∈ s.fig.run, r.state ∉ [.waitZone, .moving, .paused, .homing]
    (rest → exec (.settlingDone t) s = .next (idleAt t s))
    ∧ (¬rest → exec (.settlingDone t) s = .next { s with now := t })

/-! ## Gates (chapter 3) -/

/-- R40, R43: at the lead-in's expiry with the header in use and the first cue held (or no cue to hold), the
station is ready at gate 0: GATE_WAIT, READY_QUEUED, its READY queued. That a first block which both pointers have
passed counts as held is the model's reading (log entry 50). Without the header it waits on. R48: the
gate timer's expiry in phase READY queues a GO with the stations both in the ready set and participants; the
timer stops and the phase stays. -/
def Obligations.GateTimersMakeReadyAndGo : Prop :=
  (∀ (t e : Nat) (g : GateRec) (s : State), Live t s → s.gtu.gate = some g → g.number = some 0 →
    g.phase = .standing → g.leadIn = some e → e ≤ t → s.bus.queue.length < 8 →
    (s.csq.parts ≠ none →
      (s.csq.builtin = true ∨ s.csq.play.pos = none
        ∨ (s.csq.slotA.state = .ready ∧ s.csq.slotA.item = 1) ∨ 1 < min s.csq.play.item s.csq.lead.item) →
      exec (.leadInExpiry t) s = .next { s with
        now := t, she := { s.she with engine := .gateWait }
        bus := s.bus.queued (.ready ((s.she.showRec.map (·.slot)).getD 0) 0)
        gtu := { s.gtu with gate := some { g with
          leadIn := none, phase := .readyQueued, readyFrame := some s.bus.nextId, readyLost := none } } })
    ∧ (s.csq.parts = none → exec (.leadInExpiry t) s =
      .next { s with now := t, gtu := { s.gtu with gate := some { g with leadIn := none } } }))
  ∧ (∀ (t e : Nat) (g : GateRec) (r : ShowRec) (s : State), Live t s → s.gtu.gate = some g →
    s.she.showRec = some r → g.phase = .ready → g.timer = some e → e ≤ t → s.bus.queue.length < 8 →
    exec (.gateTimerExpiry t) s = .next { s with
      now := t, bus := s.bus.queued (.go r.slot (g.number.getD 0) (g.readySet &&& r.members))
      gtu := { s.gtu with gate := some { g with timer := none, goFrame := some s.bus.nextId } } })

/-- R44, R45, R47: a READY heard from a participant for the show's slot. For the gate in hand its source joins
the ready set; in phase READY the gate is then released if every participant is ready, or the deadline worked
out again. For another gate it is counted as a stray, up to 255. From elsewhere it is ignored. That a deadline worked
again which has passed, or a gate timer that waits out a lost GO, is set to it and not expired at once is the
model's choice (log entry 31). -/
def Obligations.HeardReadyJoinsTheReadySet : Prop :=
  ∀ (t : Nat) (src : Byte) (p : List Byte) (slot n : Nat) (g : GateRec) (r : ShowRec) (s : State),
    Hears t src s → parseReady p = some (slot, n) → s.gtu.gate = some g → s.she.showRec = some r →
    let h := heardAt t src s
    let ready := Bits.insert g.readySet src.toNat
    ((slot ≠ r.slot ∨ Bits.mem r.members src.toNat = false) → exec (.ready t src p) s = .next h)
    ∧ (slot = r.slot → Bits.mem r.members src.toNat = true → g.number ≠ some n →
      exec (.ready t src p) s = .next { h with gtu := { s.gtu with stray := min 255 (s.gtu.stray + 1) } })
    ∧ (slot = r.slot → Bits.mem r.members src.toNat = true → g.number = some n →
      Bits.mem g.readySet src.toNat = false →
      exec (.ready t src p) s = .next (
        if g.phase ≠ .ready then { h with gtu := { s.gtu with gate := some { g with readySet := ready } } }
        else if Bits.subset r.members ready then
          { (match g.goFrame with
            | some id => removeFrame id h
            | none => h) with gtu := { s.gtu with gate := some (g.released t) } }
        else { h with gtu := { s.gtu with gate := some { g with
          readySet := ready
          timer := g.timer.map fun _ => g.readyMoment + s.gtu.limit * 1000000
            + (gateRank (ownNo s) ready r.members - 1) * 100000 } } }))

/-- R49: a GO of a participant for the gate in hand that names this station, which is READY: the participant set
shrinks to the GO's, each other station it drops is recorded (GATE_EXCLUDED_PEER), and the gate is released. That
the records come in ascending order is the model's choice (log entry 14). A GO for another slot or gate, after the
release, or from a station outside the set is ignored. R50, R34: one that leaves this station out, or finds it not
READY, makes it withdraw with EXCLUDED: all that the withdrawal does is `withdrawnFrom`, shown for a station with
no figure. R34, R113, R116, for a station with one figure: its motor off, its show move ended, a figure at its park
position PARKED with no zone held for it, any other in homing with its homing zones asked for or, having none,
granted. R34, in SETTLING with the gate record cleared and the withdrawal flag clear: out of the set, WITHDRAW
queued, every lamp out (log entry 32). That grants follow at the end of the step is the model's choice (log entry
13). -/
def Obligations.GoReleasesTheGate : Prop :=
  ∀ (t : Nat) (src : Byte) (p : List Byte) (x : GoIn) (r : ShowRec) (s : State),
    Hears t src s → ZonesAtRest s → parseGo p = some x → s.she.showRec = some r →
    let h := heardAt t src s
    (∀ g, s.gtu.gate = some g →
      let taken := g.phase ≠ .released ∧ x.slot = r.slot ∧ g.number = some x.gate
        ∧ Bits.mem r.members src.toNat = true
      let dropped := (List.range 32).filter fun n =>
        Bits.mem r.members n && !Bits.mem x.members n && n != ownNo s
      let u := dropped.foldl (fun u n => raiseFault .gateExcludedPeer n u) { h with
        she := { s.she with showRec := some { r with members := r.members &&& x.members } } }
      (¬taken → exec (.go t src p) s = .next h)
      ∧ (taken → g.phase = .ready → Bits.mem x.members (ownNo s) = true →
        exec (.go t src p) s = .next { (match g.goFrame with
          | some id => removeFrame id u
          | none => u) with gtu := { s.gtu with gate := some (g.released t) } })
      ∧ (taken → (g.phase ≠ .ready ∨ Bits.mem x.members (ownNo s) = false) →
        s.she.engine ∈ [.arming, .gateWait, .running] → Sends s →
        ((∀ f, figRec s f = none) → u.bus.queue.length < 7 →
          exec (.go t src p) s = .next (withdrawnFrom .excluded u))
        ∧ ∀ f c, f ≤ 6 → f < s.fig.run.length → figRec s f = some c → (∀ k ≤ 6, k ≠ f → figRec s k = none) →
          u.bus.queue.length < 6 →
          ((figRun s f).state ∈ [.moving, .paused]
            ∨ ((figRun s f).state ∈ [.waitZone, .parked] ∧ (figRun s f).duty = 0)) →
          ∃ w, exec (.go t src p) s = .next (settleZones trialFuel w) ∧ w.she.engine = .settling
            ∧ w.gtu.gate = none ∧ (figRun w f).duty = 0 ∧ (figRun w f).showMove = false
            ∧ (figRun w f).pos = (figRun s f).pos
            ∧ if (c.park - (figRun s f).pos) + ((figRun s f).pos - c.park) ≤ c.window then
                (figRun w f).state = .parked ∧ (figRun w f).run = none
                ∧ ∀ z < 64, zoneAt w z ≠ .held (ownNo s) (some f)
              else (figRun w f).state = .homing
                ∧ (figRun w f).run = some ⟨.homing, [(c.park, c.creep)], 1, 100,
                  c.homingZones.map fun z => (z, 0), false, .claim, .seek, .off, false⟩
                ∧ if c.homingZones = [] then f ∈ w.zon.granted
                  else ⟨f, c.homingZones, .waiting⟩ ∈ w.zon.reqs ∧ w.zon.trialDue = true))
    ∧ (s.gtu.gate = none → s.she.engine = .settling → x.slot = r.slot → Bits.mem r.members src.toNat = true →
      Bits.mem x.members (ownNo s) = false → r.withdrawn = false → Sends s → s.bus.queue.length < 8 →
      exec (.go t src p) s = .next { h with
        she := { s.she with showRec := some (r.left (ownNo s)) }, bus := h.bus.queued (.withdraw r.slot .excluded)
        chr := { s.chr with lamps := s.chr.lamps.map fun _ => ⟨0, none⟩ } })

/-- R46, R67: the settle timer's expiry passes the engine to RUNNING and the gate record to AHEAD, and resumes
the beat clock: a segment of the tempo in force from the show time and tick of the stand, set at the present
moment. Then what is due at that tick is played; where nothing is left to play (both pointers at the walk's end, as
in a programme without cues), nothing more happens. That grants follow at the end of the step is the model's choice
(log entry 13). -/
def Obligations.SettleTimerResumesTheBeatClock : Prop :=
  ∀ (t e : Nat) (g : GateRec) (s : State), Live t s → ZonesAtRest s → s.gtu.gate = some g →
    g.phase = .released → g.settle = some e → e ≤ t →
    let u := { s with
      now := t, she := { s.she with engine := .running }
      gtu := { s.gtu with gate := some { g with phase := .ahead, settle := none } }
      csq := { s.csq with
        running := true, anchorReal := t, anchorTau := s.csq.tau, gateAfter := none
        seg := { s.csq.seg with tau0 := s.csq.tau, tick0 := s.csq.gateTick } } }
    exec (.settleTimerExpiry t) s = .next (settleZones trialFuel (playWaiting 9 u))
    ∧ (s.csq.play.pos = none → s.csq.lead.pos = none → s.csq.slotA = CueSlot.vacant →
      s.csq.slotB = CueSlot.vacant → s.csq.wakeups = [] → (∀ c ∈ s.chr.channels, c.kind ≠ .strobe) →
      partOver u = false → exec (.settleTimerExpiry t) s = .next { u with csq := { u.csq with
        play := { s.csq.play with waiting := none }, lead := { s.csq.lead with waiting := none } } })

/-! ## Cue Sequencer (chapter 4) -/

/-- R55, R59, R60: a programme header read good while the lead-in runs: its parts are in use, both pointers stand at
the first cue, the first segment begins at show time 0, and the first two blocks of the walk are being read into
slots A and B. A read that fails the first time is performed again at once; a second time, the memory answering, or
with fields out of range, the programme is marked bad (CUE_BLOCK_BAD) and the station, in ARMING, withdraws with
ARMING_FAILED (R54, R34: `withdrawnFrom`, shown for a station with no figure). R59, R166: where the memory does not
answer the second time either, a header read or a block read, IMAGE_UNREADABLE is raised and the station is STOPPED,
not muted, and withdraws with STOPPED. R62, R59, R54: a cue block read good makes its slot READY with its 32 records.
A read that fails the first time is performed again at once; the second time, the memory answering, the slot is BAD
and the programme marked bad (CUE_BLOCK_BAD), and in ARMING the first block's failure makes the station withdraw
likewise. Otherwise the gate record is checked: a gate that does not stand, or stands in its lead-in, takes no
notice; at gate 0, the lead-in over, the first block makes the station ready (R40, R43), and so does at a later gate
a block whose coming meets R42. Then both pointers move on. R58, R68: while the beat clock stands, in ARMING too, the
play pointer steps over a strike or a GATE cue already taken up and skips a cue that fails its checks (CUE_ORDER for
one of another kind than a strike), and a pointer at rest stays where it is (shown for one such move, and for none).
R62, R61: pointers that find their block BAD stand at the first cue of the next item, the block's slot EMPTY (shown
where no item two on takes it). The model's choices in it: that the gate is checked before the pointers move (log
entry 50), that a pointer at an unread block of a clock that stands is noted as waiting (log entry 26), and that
grants follow at the end of the step (log entry 13). -/
def Obligations.ProgrammeReadsFillPartsAndSlots : Prop :=
  let bad := fun (s u : State) =>
    let prog := (s.she.showRec.map (·.prog)).getD 0
    raiseFault .cueBlockBad prog { u with csq := { u.csq with
      directory := s.csq.directory.set prog { s.csq.directory.getD prog DirEntry.absent with bad := true } } }
  let silent := fun (u : State) => withdrawnFrom .stopped { raiseFault .imageUnreadable 0 u with
    iml := { u.iml with station := .stopped, muted := false } }
  (∀ (t : Nat) (r : PortRead) (d : List Byte) (s : State), Live t s → ZonesAtRest s →
    s.csq.port = [r] → r.use = .header → r.addr + 204 ≤ 16777216 → r.started + 416 ≤ t → d.length = 204 →
    (∀ ps g first, wordSum d % 65536 = 0 → (∃ b ∈ d, b ≠ 0xFF) →
      parseHeader ((s.iml.header.map (·.libSize)).getD 0) d = some ps → firstPos ps = some first →
      s.gtu.gate = some g → g.phase = .standing → g.number = some 0 → g.leadIn ≠ none →
      let read := fun use p => (⟨use, ((s.iml.header.map (·.libBase)).getD 0) + 258 * blockOf ps p, 1, t⟩ : PortRead)
      let start : Cursor := ⟨some first, 1, none, none⟩
      let armed := fun b port => { s with now := t, csq := { s.csq with
        parts := some ps, builtin := false, play := start, lead := start
        seg := ⟨0, 0, 0, (ps.getD 0 Part.nil).tempo⟩
        slotA := ⟨.filling, 1, first, blockOf ps first, []⟩, slotB := b, port := port } }
      exec (.headerReadDone t d) s = .next (match nextItem ps first with
        | none => armed s.csq.slotB [read (.slotA 1) first]
        | some q => armed ⟨.filling, 2, q, blockOf ps q, []⟩ [read (.slotA 1) first, read (.slotB 2) q]))
    ∧ (r.attempt = 1 → (wordSum d % 65536 ≠ 0 ∨ ∀ b ∈ d, b = 0xFF) →
      exec (.headerReadDone t d) s = .next { s with
        now := t, csq := { s.csq with port := [{ r with attempt := 2, started := t }] } })
    ∧ ((∃ b ∈ d, b ≠ 0xFF) → (if wordSum d % 65536 = 0 then
          parseHeader ((s.iml.header.map (·.libSize)).getD 0) d = none else r.attempt ≠ 1) →
      s.she.engine = .arming → Sends s → (∀ f, figRec s f = none) → s.bus.queue.length < 6 →
      exec (.headerReadDone t d) s =
        .next (withdrawnFrom .armingFailed (bad s { s with now := t, csq := { s.csq with port := [] } })))
    ∧ ((∀ b ∈ d, b = 0xFF) → r.attempt ≠ 1 → s.she.engine = .arming → s.iml.station = .inService →
      (∀ f, figRec s f = none) → s.bus.queue.length < 6 →
      exec (.headerReadDone t d) s = .next (silent { s with now := t, csq := { s.csq with port := [] } })))
  ∧ (∀ (t item : Nat) (r : PortRead) (l : List PortRead) (d : List Byte) (inB : Bool) (s : State), Live t s →
    ZonesAtRest s → s.csq.port = r :: l →
    r.use = (if inB then .slotB item else .slotA item) → r.addr + 258 ≤ 16777216 → r.started + 524 ≤ t →
    d.length = 258 →
    let sl := if inB then s.csq.slotB else s.csq.slotA
    let popped := match l with
      | [] => []
      | q :: m => { q with started := t } :: m
    let put := fun (x : CueSlot) => { s with now := t, csq := { s.csq with
      port := popped, slotA := if inB then s.csq.slotA else x, slotB := if inB then x else s.csq.slotB } }
    let filled := put { sl with
      state := .ready
      cues := (List.range 32).map fun i =>
        ⟨byteAt d (8 * i), le16 d (8 * i + 1), byteAt d (8 * i + 3), byteAt d (8 * i + 4), byteAt d (8 * i + 5),
          byteAt d (8 * i + 6)⟩ }
    let here := item = 1 ∧ (inB = true → s.csq.slotA.state = .empty ∨ s.csq.slotA.item ≠ 1)
    let good := byteSum (d.take 256) % 65536 = le16 d 256 ∧ ∃ b ∈ d, b ≠ 0xFF
    let fails := byteSum (d.take 256) % 65536 ≠ le16 d 256 ∧ (∃ b ∈ d, b ≠ 0xFF) ∧ r.attempt ≠ 1
    sl.state = .filling → sl.item = item →
    (∀ v, (good ∧ v = filled
        ∨ fails ∧ ¬(s.she.engine = .arming ∧ item = 1) ∧ v = bad s (put { sl with state := .bad })) →
      exec (.blockReadDone t d) s = .next (settleZones trialFuel (pump (gateCheck v)))
      ∧ ((∀ g, s.gtu.gate = some g → g.phase ≠ .standing ∨ (g.number = some 0 ∧ g.leadIn ≠ none)) →
        gateCheck v = v)
      ∧ ∀ g, s.gtu.gate = some g → s.bus.queue.length < 7 →
        (good → here → s.csq.parts ≠ none → g.phase = .standing → g.number = some 0 →
          g.leadIn = none → gateCheck v = readyAt g v)
        ∧ (MeetsR42 g v → gateCheck v = readyAt g v)
        ∧ (g.number ≠ some 0 → ¬MeetsR42 g v → gateCheck v = v))
    ∧ (fails → s.she.engine = .arming → item = 1 → Sends s → (∀ f, figRec s f = none) → s.bus.queue.length < 6 →
      exec (.blockReadDone t d) s = .next (withdrawnFrom .armingFailed (bad s (put { sl with state := .bad }))))
    ∧ ((∀ b ∈ d, b = 0xFF) → r.attempt ≠ 1 → s.she.engine ∈ [.arming, .gateWait, .running] →
      s.iml.station = .inService → (∀ f, figRec s f = none) → s.bus.queue.length < 6 →
      exec (.blockReadDone t d) s = .next (silent (put CueSlot.vacant)))
    ∧ ((byteSum (d.take 256) % 65536 ≠ le16 d 256 ∨ ∀ b ∈ d, b = 0xFF) → r.attempt = 1 →
      exec (.blockReadDone t d) s = .next { s with
        now := t, csq := { s.csq with port := { r with attempt := 2, started := t } :: l } }))
  ∧ (∀ (v w : State) (c : Cursor), v.csq.running = false →
    let step := v.csq.play.step (partsOf v)
    (w = v ∧ (c = v.csq.play
        ∨ ∃ p q, cueView v v.csq.play = .cue p q ∧ if cueValid v (partsOf v) p v.csq.play.prev q = true then
            (q.kind = 1 ∨ q.kind = 3 ∨ (q.kind = 7 ∧ p ∈ v.csq.gatesDone)) ∧ c = step (some q.tick)
          else (q.kind = 1 ∨ q.kind = 3) ∧ c = step v.csq.play.prev)
      ∨ w = raiseFault .cueOrder ((v.she.showRec.map (·.prog)).getD 0) v
        ∧ ∃ p q, cueView v v.csq.play = .cue p q ∧ cueValid v (partsOf v) p v.csq.play.prev q = false
          ∧ q.kind ≠ 1 ∧ q.kind ≠ 3 ∧ c = step v.csq.play.prev) →
    PlayRests v c → LeadRests v v.csq.lead → NoSlotLeft v c → ∃ wait, pump v = standsAt c wait w)
  ∧ ∀ (inB : Bool) (v : State), v.csq.running = false → cueView v v.csq.play = .badBlock →
    cueView v v.csq.lead = .badBlock →
    let sl := if inB then v.csq.slotB else v.csq.slotA
    let other := if inB then v.csq.slotA else v.csq.slotB
    let c := v.csq.play.skipItem (partsOf v)
    let w := { v with csq := { v.csq with
      lead := v.csq.lead.skipItem (partsOf v), slotA := if inB then v.csq.slotA else CueSlot.vacant
      slotB := if inB then CueSlot.vacant else v.csq.slotB } }
    sl.state = .bad → sl.item = v.csq.play.item → sl.item = v.csq.lead.item →
    (nextItem (partsOf v) sl.pos).bind (nextItem (partsOf v)) = none →
    (other.state = .empty ∨ sl.item < other.item) →
    PlayRests w c → LeadRests w w.csq.lead → ∃ wait, pump v = standsAt c wait w

/-- R64, R67, R68: the cue due at the play pointer, its run clear of GATE cues still to take, is handed to its
user and the pointer moves on: a LAMP cue sets its lamp (at once for duration 0, else by a fade from the present
level), a TEMPO cue begins a segment at its tick. R89: a DAMP cue of a bell configured, enabled and with a damper
puts the damper DOWN, or unless the rail is CUT raises it, to ring from now or, its hammer PULSING, from the
pulse's end. R100 to R102: a MOVE that cannot be resolved, or of a figure UNHOMED, HOMING, JAMMED or FAILED, is
counted MOVE_SKIPPED; of one whose move is under way it is MOVE_BUSY; a PARKED figure begins its move run in
WAIT_ZONE along the path, mirrored where the cue or the part says so but not both, and asks for the run's zones, an
empty set granted at once. Then both pointers do what falls to them at once. A cue not yet due stays. That the
pointers move on at once is the model's reading (log entries 26 and 30), and that grants follow at the end of the
step its choice (log entry 13). R63: a cue that falls due, at either pointer, in a block not yet read has CUE_UNDERRUN
recorded with the programme number as detail, once for the visit of that block, and the pointer stays. -/
def Obligations.DueCueIsHandedToItsUser : Prop :=
  (∀ (t : Nat) (s : State), Live t s → ZonesAtRest s → s.csq.running = true →
    let late := fun item => if item ∈ s.csq.underruns then { s with now := t }
      else raiseFault .cueUnderrun ((s.she.showRec.map (·.prog)).getD 0) { s with
        now := t, csq := { s.csq with underruns := item :: s.csq.underruns } }
    (cueView s s.csq.play = .unread → exec (.cueDue t) s = .next (late s.csq.play.item))
    ∧ (cueView s s.csq.lead = .unread → exec (.strikeDispatch t) s = .next (late s.csq.lead.item)))
  ∧ ∀ (t : Nat) (p : Pos) (q : Cue) (s : State), Live t s → ZonesAtRest s → s.csq.running = true →
    cueView s s.csq.play = .cue p q → cueValid s (partsOf s) p s.csq.play.prev q = true →
    p.part = s.csq.seg.part →
    let u := { s with now := t }
    let tick := cueTick (partsOf s) p q
    let moved := { u with csq := { s.csq with play := s.csq.play.step (partsOf s) (some q.tick) } }
    ((q.kind = 5 ∨ q.kind = 6) → showTime u < tauOf s.csq.seg tick → exec (.cueDue t) s = .next u)
    ∧ (tauOf s.csq.seg tick ≤ showTime u → pendingGate u p tick = none →
      (q.kind = 5 → exec (.cueDue t) s = .next (settleZones trialFuel (pump { moved with chr := { s.chr with
        lamps := s.chr.lamps.set q.a (
          let d := (q.c + 256 * q.d) * 2500000 / s.csq.seg.tempo
          let now := fadeLevel (lampAt s q.a) t
          if d = 0 then ⟨q.b, none⟩ else ⟨now, some ⟨now, q.b, t, d⟩⟩) } })))
      ∧ (q.kind = 6 → exec (.cueDue t) s = .next (settleZones trialFuel (pump { moved with csq := { moved.csq with
        seg := ⟨p.part, tauOf s.csq.seg tick, tick, q.a⟩ } })))
      ∧ (q.kind = 2 →
        let damper := fun d => { moved with bel := { s.bel with
          run := s.bel.run.set q.a { bellRun s q.a with damper := d } } }
        exec (.cueDue t) s = .next (settleZones trialFuel (pump (match bellRec s q.a with
          | none => moved
          | some c =>
            if c.enabled = false ∨ c.damper = none then moved
            else if q.b = 1 then damper .down
            else if s.chr.rail = .cut then moved
            else match (bellRun s q.a).hammer with
              | .pulsing _ => damper .upHeld
              | _ => damper (.up (t + c.ring * 1000))))))
      ∧ (q.kind = 4 → (∀ g, s.gtu.gate = some g → g.phase ≠ .standing) →
        let path := s.fig.paths.getD q.b PathRec.empty
        let mirrored := decide (q.d ≠ 0) != ((partsOf s).getD p.part Part.nil).mirror
        let fits := fun (c : FigRec) => path.waypoints ≠ [] ∧ ∀ w ∈ path.waypoints, w.1 ≤ c.travelMax
        let state := (figRun s q.a).state
        let zones := if mirrored then path.mirrorZones else path.zones
        (((∀ c, figRec s q.a = some c → ¬fits c) ∨ state ∈ [.unhomed, .homing, .jammed, .failed]) →
          exec (.cueDue t) s = .next (settleZones trialFuel (pump { moved with
            flt := { s.flt with moveSkipped := min 255 (s.flt.moveSkipped + 1) } })))
        ∧ ∀ c, figRec s q.a = some c → fits c →
          (state ∈ [.waitZone, .moving, .paused] →
            exec (.cueDue t) s = .next (settleZones trialFuel (pump (raiseFault .moveBusy q.a moved))))
          ∧ (state = .parked → (∀ r ∈ s.zon.reqs, r.figure ≠ q.a) →
            exec (.cueDue t) s = .next (settleZones trialFuel (pump { moved with
              fig := { s.fig with run := s.fig.run.set q.a { figRun s q.a with
                state := .waitZone, showMove := true
                run := some ⟨.move, path.waypoints.map fun w => (if mirrored then c.travelMax - w.1 else w.1, w.2), 1,
                  q.c, zones, false, .claim, .seek, .off, false⟩ } }
              zon := if zones = [] then { s.zon with granted := [q.a] }
                else { s.zon with
                  trialDue := true, reqs := s.zon.reqs ++ [⟨q.a, zones.map (·.1), .waiting⟩] } })))))

/-- R41, R67: a GATE cue of the gate record's number, due at the play pointer, stops the beat clock at its tick:
the engine is in GATE_WAIT, the strobe low, the gate STANDING. R42, R43: where every MOVE of the show has ended and
the slot of the first cue after the gate is READY or BAD, or no cue follows, the station becomes ready at once: its
READY is queued and the gate READY_QUEUED; else the queue stays as it was. The same check, whenever it is made, makes
the station ready exactly where R42 is met (log entry 50: that a block both pointers have passed has been held). R68:
the play pointer moves past the GATE cue at once, and where it is at rest at the cue behind it, with the lead pointer
at rest too and no slot left, nothing else moves (that a wait at an unread block is noted anew while the clock stands
is the model's choice, log entry 26). R41: one whose number is 0 or differs from the
record's, or that finds the record's number none, is skipped with CUE_ORDER and its own number as detail, and the beat
clock runs on: both pointers then do what falls to them at once. One GATE cue is taken by one command (log entry 30),
and that grants follow at the end of the step is the model's choice (log entry 13). -/
def Obligations.GateCueStopsTheClock : Prop :=
  (∀ (t : Nat) (p : Pos) (q : Cue) (g : GateRec) (s : State), Live t s → ZonesAtRest s → s.csq.running = true →
    cueView s s.csq.play = .cue p q → cueValid s (partsOf s) p s.csq.play.prev q = true →
    p.part = s.csq.seg.part → tauOf s.csq.seg (cueTick (partsOf s) p q) ≤ showTime { s with now := t } →
    q.kind = 7 → q.a ≠ 0 → p ∉ s.csq.gatesDone → s.csq.play.pos = some p → s.bus.queue.length < 8 →
    s.gtu.gate = some g → g.number = some q.a → g.phase = .ahead →
    let tick := cueTick (partsOf s) p q
    let after := s.csq.play.step (partsOf s) s.csq.play.prev
    let held := s.csq.builtin = true
      ∨ ∃ sl, slotOf s after.item = some sl ∧ (sl.state = .ready ∨ sl.state = .bad)
    let stood : GateRec := { g with phase := .standing }
    let u := { s with
      now := t, she := { s.she with engine := .gateWait }, gtu := { s.gtu with gate := some stood }
      chr := { s.chr with strobeEnd := none }
      csq := { s.csq with
        running := false, tau := tauOf s.csq.seg tick, gateTick := tick, gatesDone := s.csq.gatesDone ++ [p]
        gateAfter := some (after.pos, after.item) } }
    let c := s.csq.play.step (partsOf s) (some q.tick)
    ((∀ r ∈ s.fig.run, r.showMove = false) → (after.pos = none ∨ held) →
      exec (.cueDue t) s = .next (settleZones trialFuel (pump (readyAt stood u))))
    ∧ (¬((∀ r ∈ s.fig.run, r.showMove = false) ∧ (after.pos = none ∨ held)) →
      exec (.cueDue t) s = .next (settleZones trialFuel (pump u)))
    ∧ ∀ w ∈ [u, readyAt stood u], playMove (endWaits w) = some { endWaits w with csq := { (endWaits w).csq with
        play := { c with waiting := none } } }
      ∧ (PlayRests u c → LeadRests u s.csq.lead → NoSlotLeft u c → ∃ wait, pump w = standsAt c wait w))
  ∧ (∀ (t : Nat) (p : Pos) (q : Cue) (g : GateRec) (s : State), Live t s → s.csq.running = true →
    cueView s s.csq.play = .cue p q → cueValid s (partsOf s) p s.csq.play.prev q = true →
    p.part = s.csq.seg.part → tauOf s.csq.seg (cueTick (partsOf s) p q) ≤ showTime { s with now := t } →
    q.kind = 7 → p ∉ s.csq.gatesDone → s.csq.play.pos = some p → s.gtu.gate = some g →
    (q.a = 0 ∨ g.number ≠ some q.a) →
    let skipped := raiseFault .cueOrder q.a { s with
      now := t, csq := { s.csq with gatesDone := s.csq.gatesDone ++ [p] } }
    exec (.cueDue t) s = .next (settleZones trialFuel (pump skipped)) ∧ skipped.csq.running = true
      ∧ playMove skipped = some { skipped with csq := { skipped.csq with
          play := s.csq.play.step (partsOf s) (some q.tick) } })
  ∧ ∀ (g : GateRec) (s : State), s.gtu.gate = some g → s.bus.queue.length < 8 →
    (MeetsR42 g s → gateCheck s = readyAt g s) ∧ (g.number ≠ some 0 → ¬MeetsR42 g s → gateCheck s = s)

/-- R69, R70, R91, R92: a STRIKE or HOURSTRIKE at the lead pointer that passes the checks of R58, no gate and no
unread block before its run's end, is handed to the Bell Unit with its onset 100 ms ahead, and not before. A
HOURSTRIKE of strike hour N strikes once and, for N above 1, opens a record of N − 1 strokes that asks for its
first wake-up an interval later; a record whose wake-up lies beyond its part, or finds 16 waiting, is closed, its
strokes counted SUPPRESSED. A wake-up due is answered likewise, its last stroke closing the record, any other
asking for the next wake-up. What the look-ahead does at unread blocks and gates is the model's choice (log
entries 29, 30 and 43). -/
def Obligations.StrikesAreDispatchedAhead : Prop :=
  (∀ (t : Nat) (s : State), Live t s → s.csq.running = true →
    let u := { s with now := t }
    (∀ p q, cueView s s.csq.lead = .cue p q → cueValid s (partsOf s) p s.csq.lead.prev q = true →
      (strikeAhead u p q).gate = false → (strikeAhead u p q).unread = none →
      let tick := cueTick (partsOf s) p q
      let tau := tauOf (strikeAhead u p q).seg tick
      let hour := (s.she.showRec.map (·.hour)).getD 1
      let first := takeStrike q.a q.b (realOf s tau) { u with csq := { s.csq with
        lead := s.csq.lead.step (partsOf s) (some q.tick) } }
      (q.kind = 1 ∨ q.kind = 3 → showTime u < tau - 100000 → exec (.strikeDispatch t) s = .next u)
      ∧ (q.kind = 1 → tau - 100000 ≤ showTime u → exec (.strikeDispatch t) s = .next (pump first))
      ∧ (q.kind = 3 → tau - 100000 ≤ showTime u → exec (.strikeDispatch t) s = .next (pump (
          if hour ≤ 1 then first
          else askWakeUp ⟨s.bel.nextHour, q.a, q.b, q.c, p.part, tick + q.c, hour - 1⟩
            { first with bel := { first.bel with nextHour := s.bel.nextHour + 1 } }))))
    ∧ ∀ w r, s.csq.wakeups = [w] → s.bel.hours = [r] → r.id = w.record →
      (wakeAhead u w.part w.tick).gate = false → (wakeAhead u w.part w.tick).unread = none →
      let tau := tauOf (wakeAhead u w.part w.tick).seg w.tick
      let stroke := takeStrike r.bell r.vel (realOf s tau) { u with
        csq := { s.csq with wakeups := [] }, bel := { s.bel with hours := [] } }
      (showTime u < tau - 100000 → exec (.wakeUpDue t) s = .next u)
      ∧ (tau - 100000 ≤ showTime u → r.remaining ≤ 1 → exec (.wakeUpDue t) s = .next stroke)
      ∧ (tau - 100000 ≤ showTime u → 1 < r.remaining → exec (.wakeUpDue t) s = .next (answerWakeUps 191 (
        askWakeUp { r with next := r.next + r.interval, remaining := r.remaining - 1 } stroke))))
  ∧ ∀ (r : HourRec) (s : State), askWakeUp r s =
    if ((partsOf s).getD r.part Part.nil).length ≤ r.next ∨ 16 ≤ s.csq.wakeups.length then
      { s with flt := { s.flt with suppressed := min 255 (s.flt.suppressed + r.remaining) } }
    else { s with
      bel := { s.bel with hours := s.bel.hours ++ [r] }
      csq := { s.csq with wakeups := s.csq.wakeups ++ [⟨r.id, r.part, r.next⟩] } }

/-- R65, R37, R52, R95: when show time reaches the end of the last part the clock stops there and the programme ends:
the engine is SETTLING, the gate record cleared with its queued frames, the hour records closed, every damper DOWN,
the slots EMPTY (shown for a station with no figure). R64, R65: when it reaches the end of another part, the next
part's segment begins there at its tick 0 and header tempo, the marks start again at tick 0, and a pointer that still
lies before that part stands at its first cue; then both pointers do what falls to them at once, and a part that is
over with it ends likewise. R70: a wake-up of the part that ends, which an unread block held until then, is answered
first, with the onset τ(T) of its own part (log entry 29). Before its end, no part ends. The model's choices in it:
that a pointer which does not lie before the next part stays where it stands (log entry 28), and that grants follow
at the end of the step (log entry 13). -/
def Obligations.LastPartEndsTheProgramme : Prop :=
  ∀ (t : Nat) (s : State), Live t s → ZonesAtRest s → s.csq.running = true →
    let ends := tauOf s.csq.seg ((partsOf s).getD s.csq.seg.part Part.nil).length
    let next := s.csq.seg.part + 1
    (showTime { s with now := t } < ends → exec (.partEnd t) s = .next { s with now := t })
    ∧ (ends ≤ showTime { s with now := t } → next < (partsOf s).length → ∃ play lead,
      (∀ x ∈ [(s.csq.play, play), (s.csq.lead, lead)],
        ((∃ q, x.1.pos = some q ∧ q.part < next
            ∧ q.pass < ((partsOf s).getD q.part Part.nil).passes q.sec
            ∧ q.idx < (((partsOf s).getD q.part Part.nil).range q.sec).count) → x.2.pos = firstPosFrom (partsOf s) next)
        ∧ ((∀ q, x.1.pos = some q → next ≤ q.part) → x.2 = x.1))
      ∧ ∃ late, exec (.partEnd t) s = .next (settleZones trialFuel (endParts 8 (pump { late with
        csq := { late.csq with
          seg := ⟨next, ends, 0, ((partsOf s).getD next Part.nil).tempo⟩, nextMark := 0
          play := play, lead := lead } })))
        ∧ ((∀ w ∈ s.csq.wakeups, next ≤ w.part) → late = { s with now := t })
        ∧ ∀ w r, s.csq.wakeups = [w] → s.bel.hours = [r] → r.id = w.record → w.part < next → r.remaining ≤ 1 →
          late = takeStrike r.bell r.vel (realOf s (tauOf s.csq.seg w.tick)) { s with
            now := t, csq := { s.csq with wakeups := [] }, bel := { s.bel with hours := [] } })
    ∧ (ends ≤ showTime { s with now := t } → (partsOf s).length ≤ next → (∀ f, figRec s f = none) →
      exec (.partEnd t) s = .next { s with
        now := t, she := { s.she with engine := .settling }, gtu := { s.gtu with gate := none }
        csq := { s.csq with
          parts := none, builtin := false, slotA := CueSlot.vacant, slotB := CueSlot.vacant
          play := Cursor.nowhere, lead := Cursor.nowhere, running := false, tau := ends, gatesDone := []
          gateAfter := none, gateTick := 0, nextMark := 0, wakeups := [], port := [], underruns := [] }
        bel := { s.bel with hours := [], run := s.bel.run.map fun r => { r with damper := .down } }
        fig := { s.fig with run := s.fig.run.map fun r => { r with showMove := false } }
        chr := { s.chr with strobeEnd := none }
        bus := { s.bus with queue := s.bus.queue.filter fun f =>
          !(match f.content with
            | .ready _ _ | .go _ _ _ => true
            | _ => false) || s.bus.current == some f.id } })

/-- R72, R139: the mark due, 24 ticks after the last, no gate before it, drives the strobe: in BAR mode 20 ms at
a bar's first beat and nothing at others, in BEAT mode 30 ms at it and 10 ms at others. The next mark stands 24
ticks on. -/
def Obligations.MarksPulseTheStrobe : Prop :=
  ∀ (t : Nat) (c : ChanRec) (s : State), Live t s → s.csq.running = true →
    s.chr.channels.find? (fun c => c.kind == .strobe) = some c →
    let part := (partsOf s).getD s.csq.seg.part Part.nil
    s.csq.nextMark < part.length → tauOf s.csq.seg s.csq.nextMark ≤ showTime { s with now := t } →
    (wakeAhead { s with now := t } s.csq.seg.part s.csq.nextMark).gate = false →
    exec (.beatMark t) s = .next { s with
      now := t, csq := { s.csq with nextMark := s.csq.nextMark + 24 }
      chr := { s.chr with strobeEnd := match c.mode, decide (s.csq.nextMark % (24 * part.beats) = 0) with
        | .bar, true => some (t + 20000)
        | .bar, false => s.chr.strobeEnd
        | .beat, true => some (t + 30000)
        | .beat, false => some (t + 10000) } }

/-! ## Bell Unit (chapter 5) -/

/-- R77 to R79: a strike handed over. Of a bell that is absent or not enabled, or of effective velocity 0, it is
counted SUPPRESSED; past its late deadline it is STRIKE_LATE; with 16 listed it is STRIKE_LIST_FULL. Else it is
listed with its lead and fire time, the list kept in order of fire time, bell and insertion; one whose fire time
has come goes on to the arbiter. R77, R7: the effective velocity is the least of the cue's velocity, the ceiling
of the more restrictive of the agreed and the present level (CLOSED counting as QUIET: the open ceiling of the
entry in force, or for QUIET the lesser of that and the configured quiet ceiling), and the rail's ceiling, 127,
64 under SAG and 0 under CUT. -/
def Obligations.StrikesAreListedInFireOrder : Prop :=
  ∀ (b v : Nat) (onset : Int) (s : State),
    let open_ := ((s.sck.entry.bind fun i => s.sck.calendar[i]?).map (·.openCeiling)).getD 0
    let agreed := (s.she.showRec.map (·.level)).getD .quiet
    let vel := min (min v (if agreed = .opened ∧ s.sck.level = .opened then open_ else min s.sck.quietCeiling open_))
      (match s.chr.rail with
        | .normal => 127
        | .sag => 64
        | .cut => 0)
    (bellRec s b = none → takeStrike b v onset s = addSuppressed 1 s)
    ∧ ∀ c, bellRec s b = some c →
      let lead := c.leadMin + c.leadSpan * (127 - vel) / 126
      let fire := onset - lead
      ((c.enabled = false ∨ vel = 0) → takeStrike b v onset s = addSuppressed 1 s)
      ∧ (c.enabled = true → vel ≠ 0 → fire + s.bel.tolerance * 1000 < s.now →
        takeStrike b v onset s = raiseFault .strikeLate b s)
      ∧ (c.enabled = true → vel ≠ 0 → s.now ≤ fire + s.bel.tolerance * 1000 → 16 ≤ s.bel.strikes.length →
        takeStrike b v onset s = raiseFault .strikeListFull b s)
      ∧ (c.enabled = true → vel ≠ 0 → s.now ≤ fire + s.bel.tolerance * 1000 → s.bel.strikes.length < 16 →
        ∃ l, l.Perm (⟨b, vel, lead, onset, fire, s.bel.nextIns⟩ :: s.bel.strikes)
          ∧ (s.bel.strikes.Pairwise (fun x y => strikeBefore x y = true) →
            (∀ x ∈ s.bel.strikes, x.ins < s.bel.nextIns) → l.Pairwise (fun x y => strikeBefore x y = true))
          ∧ takeStrike b v onset s =
            let u := { s with bel := { s.bel with strikes := l, nextIns := s.bel.nextIns + 1 } }
            if fire ≤ s.now then runArbiter u else u)

/-- R80 to R85: under CUT the due entries are removed and counted SUPPRESSED. Else, a pulse slot being free, the
one eligible entry leaves the list and its pulse starts: the width its curve gives (velocity 64 at most under
SAG) if the heat limit allows it, else the heat left if that is the min width or more (THERMAL_TRIM), else none
(THERMAL_SKIP). R83: the curve gives its first width up to its first velocity, its last from its last, and between
two of its four points the width on the line between them, rounded down. R82: the entry whose late
deadline has come is removed, with STRIKE_LATE for its bell. -/
def Obligations.DueStrikesArePulsedOrRemoved : Prop :=
  (∀ (t : Nat) (s : State), Live t s →
    (s.chr.rail = .cut → exec (.strikeDue t) s = .next { s with
      now := t
      bel := { s.bel with strikes := s.bel.strikes.filter fun e => decide ((t : Int) < e.fire) }
      flt := { s.flt with
        suppressed := min 255 (s.flt.suppressed + (s.bel.strikes.filter fun e => decide (e.fire ≤ (t : Int))).length) } })
    ∧ ∀ (l r : List Strike) (e : Strike) (c : BellRec), s.chr.rail ≠ .cut → slotsHeld s < s.bel.k →
      s.bel.strikes = l ++ e :: r → bellRec s e.bell = some c →
      let ready := fun (x : Strike) => x.fire ≤ t ∧ t ≤ x.fire + s.bel.tolerance * 1000
        ∧ (bellRun s x.bell).hammer = .idle
      ready e → (∀ x ∈ l ++ r, ¬ready x) →
      let heat := (bellRun s e.bell).heat
      let w := curveWidth c.curve (if s.chr.rail = .normal then e.vel else min e.vel 64)
      let left := { s with now := t, bel := { s.bel with strikes := l ++ r } }
      let damper := if c.damper = none then (bellRun s e.bell).damper else .upHeld
      let pulse := fun w => { left with bel := { left.bel with
        run := s.bel.run.set e.bell ⟨.pulsing (t + w), heat + w, damper⟩ } }
      exec (.strikeDue t) s = .next (
        if heat + w ≤ c.heatLimit then pulse w
        else if c.minWidth ≤ c.heatLimit - heat then
          raiseFault .thermalTrim e.bell (pulse (c.heatLimit - heat))
        else raiseFault .thermalSkip e.bell left))
  ∧ (∀ (t : Nat) (l r : List Strike) (e : Strike) (s : State), Live t s → s.bel.strikes = l ++ e :: r →
    e.fire + s.bel.tolerance * 1000 ≤ t → (∀ x ∈ l ++ r, t < x.fire + s.bel.tolerance * 1000) →
    exec (.lateDeadline t) s =
      .next (raiseFault .strikeLate e.bell { s with now := t, bel := { s.bel with strikes := l ++ r } }))
  ∧ (∀ v1 w1 v2 w2 v3 w3 v4 w4 v : Nat, curveWidth [(v1, w1), (v2, w2), (v3, w3), (v4, w4)] v =
    if v ≤ v1 then w1
    else if v ≤ v2 then w1 + (w2 - w1) * (v - v1) / (v2 - v1)
    else if v ≤ v3 then w2 + (w3 - w2) * (v - v2) / (v3 - v2)
    else if v ≤ v4 then w3 + (w4 - w3) * (v - v3) / (v4 - v3)
    else w4)

/-- R76, R86, R88: the end of a pulse frees its slot, begins the recovery and lets a raised damper ring for its ring
time; the end of the recovery makes the hammer IDLE; each time the arbiter runs, with nothing to do where no strike
waits. At the drop moment a damper goes DOWN. Each heat period, every 10 ms, every configured bell's heat account
loses its cool, to 0 at least. That a damper dropped while the pulse was on stays DOWN at the pulse's end, at the
end of the programme too, is the model's choice (log entry 48). -/
def Obligations.HammersRecoverAndCool : Prop :=
  ∀ (t : Nat) (s : State), Live t s →
    (∀ b e c, (bellRun s b).hammer = .pulsing e → e ≤ t → bellRec s b = some c →
      let u := { s with now := t, bel := { s.bel with run := s.bel.run.set b { bellRun s b with
        hammer := .recovering (t + c.recovery * 1000)
        damper := if (bellRun s b).damper = .upHeld then .up (t + c.ring * 1000) else (bellRun s b).damper } } }
      exec (.pulseEnd t b) s = .next (runArbiter u) ∧ (s.bel.strikes = [] → runArbiter u = u))
    ∧ (∀ b e, (bellRun s b).hammer = .recovering e → e ≤ t →
      let u := { s with now := t, bel := { s.bel with run := s.bel.run.set b { bellRun s b with hammer := .idle } } }
      exec (.recoveryEnd t b) s = .next (runArbiter u) ∧ (s.bel.strikes = [] → runArbiter u = u))
    ∧ (∀ b e, (bellRun s b).damper = .up e → e ≤ t → exec (.damperDrop t b) s = .next { s with
      now := t, bel := { s.bel with run := s.bel.run.set b { bellRun s b with damper := .down } } })
    ∧ ∀ e, s.bel.heatTimer = some e → e ≤ t → ∃ run, run.length = s.bel.run.length
      ∧ (∀ b, b < run.length → run.getD b BellRun.rest = match bellRec s b with
        | some c => if b < 13 then { bellRun s b with heat := (bellRun s b).heat - c.cool } else bellRun s b
        | none => bellRun s b)
      ∧ exec (.heatPeriodExpiry t) s = .next { s with
        now := t, bel := { s.bel with run := run, heatTimer := some (e + 10000) } }

/-! ## Sensors and figures (chapters 6 and 8) -/

/-- R140, R141: a change of a pin starts its filter's period again, 1 ms for HOME and LIMIT, 20 µs for ENCODER,
also under a reset; a pin set to the level it has changes nothing. R140, R112: the 1 ms filter of a HOME or
LIMIT sensor gives it the pin's level. Where it does not become active that is all. A HOME sensor that becomes
active in its figure's SEEK sets the position to 0, ends the limit timer and begins the leg to park, which lies
OUTWARD, with a reversal hold, whatever the last direction. R108: a LIMIT sensor that becomes active while its
figure is driven OUTWARD, MOVING or HOMING, is an overtravel (`driveBreaks`: motor off, JAMMED with OVERTRAVEL, or
FAILED with FIGURE_FAILED); else it does nothing. The model's choices in it: that a pin is followed
through a reset (log entry 4), that a park position within the arrival window is driven to all the same (log entry
18), that the hold runs under CUT too (log entry 19), and what a park position of 0, not shown here, does (log
entry 20). -/
def Obligations.SensorPinsAreFiltered : Prop :=
  (∀ (t n : Nat) (high : Bool) (s : State), s.now ≤ t →
    exec (.sensorPinChange t n high) s = .next (
      if (sensRun s n).pin = high then { s with now := t }
      else { s with now := t, chr := { s.chr with sensors := s.chr.sensors.set n { sensRun s n with
        pin := high
        timer := match sensRec s n with
          | .off => none
          | .home _ | .limit _ => some (t + 1000)
          | .encoder _ => some (t + 20) } } }))
  ∧ (∀ (t n e : Nat) (active : Bool) (s : State), Live t s → ZonesAtRest s → (sensRun s n).timer = some e → e ≤ t →
    let formed := { s with now := t, chr := { s.chr with
      sensors := s.chr.sensors.set n { sensRun s n with filtered := some (sensRun s n).pin, timer := none } } }
    ((sensRec s n = .home active ∨ sensRec s n = .limit active) →
      ((sensRun s n).pin ≠ active ∨ (sensRun s n).filtered = some active) →
      exec (.sensorFilterExpiry t n) s = .next formed)
    ∧ (∀ (f : Nat) (c : FigRec), sensRec s n = .limit active → (sensRun s n).pin = active →
      (sensRun s n).filtered ≠ some active → f ≤ 6 → figRec s f = some c → c.limit = some n →
      (∀ g ≤ 6, ∀ k, figRec s g = some k → k.limit = some n → g = f) →
      let driven := 0 < (figRun s f).duty ∧ (figRun s f).lastOut = true ∧ (figRun s f).state ∈ [.moving, .homing]
      (driven → exec (.sensorFilterExpiry t n) s = .next (driveBreaks .overtravel f t formed))
      ∧ (¬driven → exec (.sensorFilterExpiry t n) s = .next formed))
    ∧ ∀ (f : Nat) (c : FigRec) (r : RunRec), sensRec s n = .home active → (sensRun s n).pin = active →
      (sensRun s n).filtered ≠ some active → f ≤ 6 → figRec s f = some c → c.home = n →
      (∀ g ≤ 6, ∀ k, figRec s g = some k → k.home = n → g = f) →
      (figRun s f).state = .homing → (figRun s f).run = some r → r.phase = .seek → 0 < r.waypoint.1 →
      exec (.sensorFilterExpiry t n) s = .next { formed with fig := { s.fig with
        run := s.fig.run.set f { figRun s f with
          pos := 0, duty := 0, jam := none, hold := some (t + 50000)
          coast := if 0 < (figRun s f).duty then some (t + 200000) else (figRun s f).coast
          run := some { r with phase := .toPark, limit := .off, outward := true } } } })

/-- R107, R103, R109, R141: a selected edge of a figure's ENCODER sensor. Counted (non-zero duty, a reversal
hold or the coast timer running) it moves the position by one in the last direction, within 0 and travel max,
and with non-zero duty restarts the jam timer; else it leaves it. R108: one counted at travel max while the figure is
driven OUTWARD, MOVING or HOMING, is an overtravel and leaves the position (`driveBreaks`). A MOVING figure on its
last leg, still outside the arrival window, has its duty worked again: creep within slow distance and on a park or
homing run, else scaled. R104, R105: one that reaches an intermediate waypoint passes it: the zones of the run with
its number as release index are released, and the next leg begins, in the same direction at its own duty, in the
other with a reversal hold, also where it is the last and begins within the arrival window (the model's choice, log
entry 18). R106, R116: one that comes within the arrival window of its last waypoint arrives: motor off, the coast
timer started, PARKED; a move run releases the zones of that index and, its show move ended, readiness is checked
(R42); a park run releases every zone it holds. R112: so does a homing run in TO_PARK, after which the figure is
neither JAMMED nor FAILED. R115: in SETTLING a move run that so arrives away from its park position is followed by
the park run. In which states the leg's logic runs is the model's reading (log entry 21), and that grants follow at
the end of the step its choice (log entry 13). -/
def Obligations.EncoderEdgesMoveThePosition : Prop :=
  ∀ (t n f e : Nat) (edge : EdgeSel) (c : FigRec) (s : State), Live t s → ZonesAtRest s →
    (sensRun s n).timer = some e → e ≤ t → sensRec s n = .encoder edge → f ≤ 6 → figRec s f = some c →
    c.encoder = n → (∀ g ≤ 6, ∀ k, figRec s g = some k → k.encoder = n → g = f) →
    let q := figRun s f
    let isEdge := (sensRun s n).filtered = some (!(sensRun s n).pin)
      ∧ (edge = .both ∨ (edge = .rising ∧ (sensRun s n).pin = true) ∨ (edge = .falling ∧ (sensRun s n).pin = false))
    let counted := 0 < q.duty ∨ q.hold ≠ none ∨ q.coast ≠ none
    let pos := if q.lastOut then min c.travelMax (q.pos + 1) else q.pos - 1
    let jam := if 0 < q.duty then some (t + c.jamMs * 1000) else q.jam
    let formed := { s with now := t, chr := { s.chr with
      sensors := s.chr.sensors.set n { sensRun s n with filtered := some (sensRun s n).pin, timer := none } } }
    (¬(isEdge ∧ counted) → exec (.encoderFilterExpiry t n) s = .next formed)
    ∧ (isEdge → counted → f < s.fig.run.length →
      (q.state ∈ [.parked, .unhomed, .waitZone] ∨ (q.state ∈ [.jammed, .failed] ∧ q.duty = 0)) →
      (q.lastOut = false ∨ q.duty = 0 ∨ q.pos < c.travelMax) →
      exec (.encoderFilterExpiry t n) s = .next { formed with fig := { s.fig with
        run := s.fig.run.set f { q with pos := pos, jam := jam } } })
    ∧ (isEdge → q.lastOut = true → 0 < q.duty → c.travelMax ≤ q.pos → q.state ∈ [.moving, .homing] →
      exec (.encoderFilterExpiry t n) s = .next (driveBreaks .overtravel f t formed))
    ∧ ∀ r, isEdge → (q.state = .moving ∨ (q.state = .homing ∧ r.kind = .homing ∧ r.phase = .toPark)) →
      q.run = some r → 0 < q.duty → q.hold = none →
      (q.lastOut = false ∨ q.pos < c.travelMax) → s.chr.rail = .normal → 0 < c.creep → f < s.fig.run.length →
      let dist := fun a b : Nat => (a - b) + (b - a)
      let duty := fun (w : Nat × Nat) last =>
        if last = true ∧ dist w.1 pos ≤ c.slow then c.creep else max c.creep (min 100 (w.2 * r.scale / 100))
      let put := fun (x : FigRun) zones => { formed with
        fig := { s.fig with run := s.fig.run.set f x }
        zon := { s.zon with view := s.zon.view.mapIdx fun z e =>
          if z ∈ zones then .held (ownNo s) none else e }
        bus := if zones = [] then s.bus else s.bus.queued (.release (Bits.ofList 64 zones)) }
      let quiet := Sends s ∧ s.bus.queue.length < 8 ∧ ∀ g ∈ s.bus.queue, ∀ z, g.content ≠ .claim true z
      let held := fun z => decide (zoneAt s z = .held (ownNo s) (some f))
      let mine := ((r.zones.filter fun z => z.2 == r.leg).map (·.1)).filter held
      (r.kind = .move → r.waypoints.length ≤ r.leg → c.window < dist r.waypoint.1 pos →
        exec (.encoderFilterExpiry t n) s = .next { formed with fig := { s.fig with
          run := s.fig.run.set f { q with pos := pos, jam := jam, duty := duty r.waypoint true } } })
      ∧ (r.kind ≠ .move → r.waypoints.length ≤ r.leg → c.window < dist r.waypoint.1 pos →
        exec (.encoderFilterExpiry t n) s = .next { formed with fig := { s.fig with
          run := s.fig.run.set f { q with pos := pos, jam := jam, duty := c.creep } } })
      ∧ (r.kind = .move → r.leg < r.waypoints.length →
        (if r.outward then r.waypoint.1 ≤ pos else pos ≤ r.waypoint.1) → quiet →
        let next := r.waypoints.getD r.leg (0, 0)
        let passed := { r with
          leg := r.leg + 1, zones := r.zones.filter (fun z => z.2 != r.leg), outward := decide (pos < next.1) }
        next.1 ≠ pos →
        exec (.encoderFilterExpiry t n) s = .next (put (if q.lastOut = decide (pos < next.1) then
            { q with pos := pos, jam := jam, duty := duty next (r.waypoints.length ≤ r.leg + 1), run := some passed }
          else { q with
            pos := pos, jam := none, duty := 0, coast := some (t + 200000), hold := some (t + 50000)
            run := some passed }) mine))
      ∧ (r.waypoints.length ≤ r.leg → dist r.waypoint.1 pos ≤ c.window → quiet →
        let stands := { q with
          pos := pos, jam := none, duty := 0, coast := some (t + 200000), hold := none, run := none
          state := .parked }
        (r.kind = .move → s.she.engine ≠ .settling →
          let u := put { stands with showMove := false } mine
          exec (.encoderFilterExpiry t n) s = .next (if q.showMove then gateCheck u else u))
        ∧ (r.kind ≠ .move →
          let u := put stands ((List.range 64).filter held)
          exec (.encoderFilterExpiry t n) s = .next u ∧ f ∉ jammedFigures u ∧ f ∉ figsIn u .failed)
        ∧ (r.kind = .move → s.she.engine = .settling → c.window < dist c.park pos →
          (∀ x ∈ s.zon.reqs, x.figure ≠ f) →
          let u := put { stands with
            state := .waitZone
            run := some ⟨.park, [(c.park, c.creep)], 1, 100, c.homingZones.map fun z => (z, 0), false, .claim, .seek,
              .off, false⟩ } mine
          exec (.encoderFilterExpiry t n) s = .next (settleZones trialFuel { u with
            zon := if c.homingZones = [] then { u.zon with granted := [f] }
              else { u.zon with
                trialDue := true, reqs := s.zon.reqs ++ [⟨f, c.homingZones, .waiting⟩] } })))

/-- R104, R107, R109, R112: a figure's timers. The coast timer's expiry ends it. A reversal hold's expiry turns
the figure to its leg's direction and drives it (at creep, on a park run); where it would drive it OUTWARD with the
limit sensor active, that is an overtravel (R108). The jam timer's puts a MOVING figure in JAMMED with FIGURE_JAM,
its motor off and the jam-homing wait owed, and fails a HOMING one (FIGURE_FAILED), as the homing limit timer's does.
R116: readiness is checked where a show move so ends. -/
def Obligations.FigureTimersExpire : Prop :=
  ∀ (t f e : Nat) (s : State), Live t s → e ≤ t →
    let q := figRun s f
    let put := fun (x : FigRun) => { s with now := t, fig := { s.fig with run := s.fig.run.set f x } }
    (q.coast = some e → exec (.coastTimerExpiry t f) s = .next (put { q with coast := none }))
    ∧ (∀ c r, figRec s f = some c → q.hold = some e → q.state = .moving → q.run = some r → r.kind = .park →
      q.duty = 0 → s.chr.rail = .normal → (r.outward = false ∨ limitActive s f = false) → 0 < c.creep →
      exec (.reversalHoldExpiry t f) s = .next (put { q with
        hold := none, lastOut := r.outward, duty := c.creep, jam := some (t + c.jamMs * 1000) }))
    ∧ (∀ c r, figRec s f = some c → q.hold = some e → (q.state = .moving ∨ (q.state = .homing ∧ r.phase ≠ .claim)) →
      q.run = some r → q.duty = 0 → s.chr.rail ≠ .cut → r.outward = true → limitActive s f = true → 0 < c.creep →
      exec (.reversalHoldExpiry t f) s = .next (driveBreaks .overtravel f t (put { q with lastOut := true })))
    ∧ (q.jam = some e → q.state ∈ [.moving, .homing] →
      exec (.jamTimerExpiry t f) s = .next (driveBreaks .figureJam f t { s with now := t }))
    ∧ ∀ r, q.run = some r → r.limit = .runs e → exec (.homingLimitExpiry t f) s =
      .next (raiseFault .figureFailed f (put { q.halted t with state := .failed }))

/-- R112, R113, R119 to R121: the jam-homing wait of a JAMMED figure of a sending station ends in homing. With
an empty homing set, the figure inward already and its home sensor inactive, SEEK begins at once at creep duty
with the homing limit running; with zones, all FREE and nothing else asked for, they are claimed in one CLAIM
and the figure waits for them. A station that does not send ends the wait only. -/
def Obligations.JamWaitEndsInHoming : Prop :=
  ∀ (t f e : Nat) (c : FigRec) (s : State), Live t s → ZonesAtRest s → e ≤ t → figRec s f = some c →
    let q := figRun s f
    q.jamWait = .until e → q.state = .jammed → q.duty = 0 →
    let run := fun phase limit => (⟨.homing, [(c.park, c.creep)], 1, 100, c.homingZones.map fun z => (z, 0), false,
      phase, .seek, limit, true⟩ : RunRec)
    let put := fun (x : FigRun) => { s with now := t, fig := { s.fig with run := s.fig.run.set f x } }
    (¬Sends s → exec (.jamHomingWaitExpiry t f) s = .next (put { q with jamWait := .none }))
    ∧ (Sends s → c.homingZones = [] → homeActive s f = false → q.lastOut = false → s.chr.rail = .normal →
      0 < c.creep →
      exec (.jamHomingWaitExpiry t f) s = .next (put { q with
        state := .homing, jamWait := .none, hold := none, duty := c.creep, jam := some (t + c.jamMs * 1000)
        run := some (run .seek (.runs (t + c.homingS * 1000000))) }))
    ∧ (Sends s → c.homingZones ≠ [] → (∀ z ∈ c.homingZones, zoneAt s z = .free) → s.zon.reqs = [] →
      s.bus.queue.length < 8 →
      let u := put { q with
        state := .homing, jamWait := .none, hold := none, duty := 0, jam := none, run := some (run .claim .off) }
      exec (.jamHomingWaitExpiry t f) s = .next { u with
        zon := { s.zon with
          view := s.zon.view.mapIdx fun z x =>
            if z ∈ c.homingZones then .pending (ownNo s) s.bus.nextId none (some f) else x
          reqs := [⟨f, c.homingZones, .claiming s.bus.nextId⟩] }
        bus := s.bus.queued (.claim false (Bits.ofList 64 c.homingZones)) })

/-! ## Zone Unit (chapter 7) -/

/-- R123, R125: a CLAIM heard of another station. A zone it names HELD by a third station, none held for an own
figure, stops it; so does a zone PENDING for a lower number. A zone held for an own figure draws a reassert of
such zones, unless one named them in the last 100 ms; that one queued exactly 100 ms ago lies outside them is the
model's choice (log entry 46). All zones FREE: they become PENDING for the source for 30 ms. Where it names zones of
an own claim and the own number is the higher, the own claim is lost: its group is FREE, its CLAIM leaves the queue
if it has not begun, its request waits again at the head of the list, and the source's claim is recorded (step 3).
R126, R127: a reassert heard of another station. The zones held for an own figure stay so where the source is the
higher number, and are answered with a counter-reassert; a lower source takes them, ZONE_LOST for each. The figure
that loses them, shown for one, stops where it is MOVING or PAUSED and asks for its run's zones again at the head of
the list, back in WAIT_ZONE; where it homes in SEEK or TO_PARK it does so back in CLAIM, its limit timer held (R111);
PARKED, JAMMED, FAILED or UNHOMED it only loses them, and in WAIT_ZONE or CLAIM its request stays where it stands. A
group with a zone named is voided as a whole, an own one with its claim lost. Every other zone it names becomes HELD
by the source, whoever held it. That a group is known by the moment of its CLAIM is the model's (log entry 23), and so
is that trials follow at the end of the step (log entry 13); that several ZONE_LOST records of one reassert come in
ascending order of zone is its choice (log entry 14). -/
def Obligations.HeardClaimsAndReassertsAreTaken : Prop :=
  (∀ (t : Nat) (src : Byte) (p : List Byte) (zones : ZoneSet) (s : State), Hears t src s → ZonesAtRest s →
    parseClaim p = some (false, zones) → 1 ≤ src.toNat → src.toNat ≤ 30 → zones ≠ 0 → Bits.mem zones 0 = false →
    let h := heardAt t src s
    let named := Bits.toList zones
    ((∃ z ∈ named, ∃ st f, zoneAt s z = .held st f ∧ st ≠ src.toNat) →
      (∀ z ∈ named, ∀ f, zoneAt s z ≠ .held (ownNo s) (some f)) → exec (.claim t src p) s = .next h)
    ∧ ((∀ z ∈ named, ∀ st f, zoneAt s z = .held st f → st = src.toNat) →
      (∃ z ∈ named, ∃ st g w f, zoneAt s z = .pending st g w f ∧ st < src.toNat) →
      exec (.claim t src p) s = .next h)
    ∧ (∀ mine, mine = named.filter (fun z => match zoneAt s z with
        | .held st (some _) => st == ownNo s
        | _ => false) → mine ≠ [] →
      (∀ z ∈ mine, ∀ r, s.zon.reassertAt.getD z none = some r → r + 100000 ≤ t) → Sends s →
      s.bus.queue.length < 8 →
      exec (.claim t src p) s = .next { h with
        zon := { s.zon with reassertAt := s.zon.reassertAt.mapIdx fun z r => if z ∈ mine then some t else r }
        bus := h.bus.queued (.claim true (Bits.ofList 64 mine)) })
    ∧ ((∀ z ∈ named, zoneAt s z = .free) → exec (.claim t src p) s = .next { h with zon := { s.zon with
      view := s.zon.view.mapIdx fun z e =>
        if Bits.mem zones z then .pending src.toNat t (some (t + 30000)) none else e } })
    ∧ ∀ g, src.toNat < ownNo s →
      (∀ z ∈ named, zoneAt s z = .free ∨ ∃ w f, zoneAt s z = .pending (ownNo s) g w f) →
      (∃ z ∈ named, zoneAt s z ≠ .free) →
      exec (.claim t src p) s = .next (settleZones trialFuel { removeFrame g h with zon := { s.zon with
        trialDue := true, reqs := backToHead g s.zon.reqs
        view := s.zon.view.mapIdx fun z e =>
          if Bits.mem zones z then .pending src.toNat t (some (t + 30000)) none
          else match e with
            | .pending st k w f => if st = ownNo s ∧ k = g then .free else .pending st k w f
            | _ => e } }))
  ∧ (∀ (t : Nat) (src : Byte) (p : List Byte) (zones : ZoneSet) (s : State), Hears t src s → ZonesAtRest s →
    parseClaim p = some (true, zones) → 1 ≤ src.toNat → src.toNat ≤ 30 → Bits.mem zones 0 = false →
    (∀ f ∈ s.bus.queue, ∀ z, f.content ≠ .claim true z) →
    let h := heardAt t src s
    let mine := (Bits.toList zones).filter fun z => match zoneAt s z with
      | .held st (some _) => st == ownNo s
      | _ => false
    let taken := fun z e => if Bits.mem zones z then ZoneEntry.held src.toNat none else e
    ((∀ z < 64, Bits.mem zones z = true → zoneAt s z = .free ∨ ∃ st, zoneAt s z = .held st none) →
      exec (.reassert t src p) s = .next { h with zon := { s.zon with view := s.zon.view.mapIdx taken } })
    ∧ ((∀ z < 64, Bits.mem zones z = true → ∀ st g w f, zoneAt s z ≠ .pending st g w f) → mine ≠ [] →
      ownNo s < src.toNat → Sends s → s.bus.queue.length < 8 →
      exec (.reassert t src p) s = .next { h with
        zon := { s.zon with
          view := s.zon.view.mapIdx fun z e => if z ∈ mine then e else taken z e
          reassertAt := s.zon.reassertAt.mapIdx fun z r => if z ∈ mine then some t else r }
        bus := h.bus.queued (.claim true (Bits.ofList 64 mine)) })
    ∧ (∀ f, (∀ z < 64, Bits.mem zones z = true → ∀ st g w k, zoneAt s z ≠ .pending st g w k) → mine ≠ [] →
      src.toNat < ownNo s → (∀ z ∈ mine, zoneAt s z = .held (ownNo s) (some f)) →
      let q := figRun s f
      let u := mine.foldl (fun u z => raiseFault .zoneLost z u) { h with zon := { s.zon with
        view := s.zon.view.mapIdx taken } }
      let asks := fun (x : FigRun) (r : RunRec) => settleZones trialFuel { u with
        fig := { s.fig with run := s.fig.run.set f { x with run := some r } }
        zon := { u.zon with trialDue := true, reqs := ⟨f, r.zones.map (·.1), .waiting⟩ :: s.zon.reqs } }
      (q.state ∈ [.parked, .jammed, .failed, .unhomed, .waitZone] → exec (.reassert t src p) s = .next u)
      ∧ ∀ r, q.run = some r →
        (q.state = .homing → r.phase = .claim → exec (.reassert t src p) s = .next u)
        ∧ ((∀ x ∈ s.zon.reqs, x.figure ≠ f) → r.zones ≠ [] →
          (q.state ∈ [.moving, .paused] →
            exec (.reassert t src p) s = .next (asks { q.halted t with state := .waitZone } r))
          ∧ (q.state = .homing → r.phase ≠ .claim →
            exec (.reassert t src p) s = .next (asks (q.halted t) { r with
              phase := .claim, resume := r.phase
              limit := match r.limit with
                | .runs d => .held (d - t)
                | l => l }))))
    ∧ ∀ g, mine = [] → (∀ z ∈ Bits.toList zones, ∀ k w f, zoneAt s z = .pending (ownNo s) k w f → k = g) →
      let voided := fun st k => (Bits.toList zones).any fun z => match zoneAt s z with
        | .pending st' k' _ _ => st' == st && k' == k
        | _ => false
      let lost := voided (ownNo s) g
      let view := s.zon.view.mapIdx fun z e => if Bits.mem zones z then taken z e else match e with
        | .pending st k w f => if voided st k then .free else .pending st k w f
        | _ => e
      let freed := (List.range s.zon.view.length).any fun z => !Bits.mem zones z && match zoneAt s z with
        | .pending st k _ _ => voided st k
        | _ => false
      exec (.reassert t src p) s = .next (settleZones trialFuel { (if lost then removeFrame g h else h) with
        zon := { s.zon with
          view := view, trialDue := freed || lost
          reqs := if lost then backToHead g s.zon.reqs else s.zon.reqs } }))

/-- R124: when the window of a group recorded for another station has ended, each zone of the group becomes HELD
by that station. No frame is sent and the list is not tried. -/
def Obligations.PeerWindowEndsInAHold : Prop :=
  ∀ (t : Nat) (s : State), Live t s →
    exec (.peerClaimWindowEnd t) s = .next { s with now := t, zon := { s.zon with
      view := s.zon.view.map fun e => match e with
        | .pending st g (some w) f => if st ≠ ownNo s ∧ w ≤ t then .held st none else .pending st g (some w) f
        | _ => e } }

/-- R122, R128, R131: when the window of the own group ends its zones are HELD for the figure of its request,
which is granted once all its zones are held and leaves the list; where the request was withdrawn meanwhile they
are held for no figure and a RELEASE naming them is queued. A discard mark of the group, set since its window began,
has a reassert of its zones queued first, of those that none queued in the last 100 ms has named (R125; exactly 100
ms ago lies outside, log entry 46), and is gone with the group. That grants and trials follow at the end of the step
is the model's choice (log entry 13). -/
def Obligations.OwnWindowEndsInAHold : Prop :=
  ∀ (t g : Nat) (zones : List Nat) (s : State), Live t s → ZonesAtRest s → zones ≠ [] →
    s.zon.view.length ≤ 64 →
    (∀ z, z ∈ zones ↔ ∃ k w f, zoneAt s z = .pending (ownNo s) k w f) → zones.Pairwise (· < ·) →
    (∀ z k w f, zoneAt s z = .pending (ownNo s) k w f → k = g ∧ ∃ e ≤ t, w = some e) →
    let held := fun fig => s.zon.view.mapIdx fun z e => if z ∈ zones then .held (ownNo s) fig else e
    (∀ r l, s.zon.reqs = r :: l → r.state = .claiming g → r.zones = zones → (∀ x ∈ l, x.figure ≠ r.figure) →
      let granted := { s.zon with view := held (some r.figure), reqs := l, granted := [r.figure], marks := [] }
      (s.zon.marks = [] → exec (.ownClaimWindowEnd t) s = .next (settleZones trialFuel { s with
        now := t, zon := granted }))
      ∧ ∀ named, s.zon.marks = [g] → Sends s → s.bus.queue.length < 8 →
        named = zones.filter (fun z => match s.zon.reassertAt.getD z none with
          | none => true
          | some r => decide (r + 100000 ≤ t)) →
        exec (.ownClaimWindowEnd t) s = .next (settleZones trialFuel (if named = [] then { s with
            now := t, zon := granted }
          else { s with
            now := t
            zon := { granted with
              reassertAt := s.zon.reassertAt.mapIdx fun z r => if z ∈ named then some t else r }
            bus := s.bus.queued (.claim true (Bits.ofList 64 named)) })))
    ∧ ((∀ r ∈ s.zon.reqs, r.state ≠ .claiming g) → (∀ m ∈ s.zon.marks, m = g) → Sends s → s.bus.queue.length < 8 →
      exec (.ownClaimWindowEnd t) s = .next { s with
        now := t, zon := { s.zon with view := held none, marks := [] }
        bus := s.bus.queued (.release (Bits.ofList 64 zones)) })

/-- R129: a RELEASE arriving whole from another station 1 to 30 makes each zone it names that is HELD by or
PENDING for its source FREE and leaves every other as it is; if any became FREE the list is tried. From any
other source it is ignored. -/
def Obligations.HeardReleaseFreesZones : Prop :=
  ∀ (t : Nat) (src : Byte) (p : List Byte) (zones : ZoneSet) (s : State), Hears t src s → ZonesAtRest s →
    parseRelease p = some zones →
    let h := heardAt t src s
    let of : ZoneEntry → Bool := fun e => match e with
      | .free => false
      | .pending st _ _ _ | .held st _ => st == src.toNat
    let view := s.zon.view.mapIdx fun z e => if 1 ≤ z ∧ Bits.mem zones z ∧ of e then ZoneEntry.free else e
    let freed := (List.range 64).any fun z => decide (1 ≤ z) && Bits.mem zones z && of (zoneAt s z)
    exec (.release t src p) s = .next (if 1 ≤ src.toNat ∧ src.toNat ≤ 30 then
        settleZones trialFuel { h with zon := { s.zon with view := view, trialDue := freed } }
      else h)

/-- R158, R130, R36, R121: the silence of a peer: SILENT in the peer table, its zones FREE; in a show a
participant so silent leaves the participant set, and the gate in hand is checked (`withoutMember`; what a
recomputed deadline that has passed does is log entry 31). The retry moment of a lost CLAIM: the list is tried, and
the first request, its zones FREE, is claimed again. -/
def Obligations.SilenceFreesAndRetryClaims : Prop :=
  (∀ (t n e : Nat) (s : State), Live t s → ZonesAtRest s → s.bus.peers.getD n .unknown = .present e → e ≤ t →
    1 ≤ n → n ≤ 30 → n ≠ ownNo s → s.zon.reqs = [] →
    let gone := fun u => if inShow s then withoutMember n u else u
    exec (.silenceTimerExpiry t n) s = .next (gone { s with
      now := t, bus := { s.bus with peers := s.bus.peers.set n .silent }
      zon := { s.zon with view := s.zon.view.map fun e => match e with
        | .free => .free
        | .pending st g w f => if st = n then .free else .pending st g w f
        | .held st f => if st = n then .free else .held st f } }))
  ∧ ∀ (t n : Nat) (r : ZoneReq) (s : State), Live t s → ZonesAtRest s → s.zon.claimRetry = some n →
    n < s.bus.frameEnds → s.zon.reqs = [r] → r.state = .waiting → r.zones ≠ [] →
    (∀ z ∈ r.zones, zoneAt s z = .free) → s.bus.queue.length < 8 →
    exec (.claimRetryTrial t) s = .next { s with
      now := t, bus := s.bus.queued (.claim false (Bits.ofList 64 r.zones))
      zon := { s.zon with
        claimRetry := none, reqs := [{ r with state := .claiming s.bus.nextId }]
        view := s.zon.view.mapIdx fun z e =>
          if z ∈ r.zones then .pending (ownNo s) s.bus.nextId none (some r.figure) else e } }

/-! ## Channel and Rail Unit (chapter 8) -/

/-- R142 to R144, R80, R87, R90: a measurement of the rail. It counts toward CUT below the cut threshold and
toward SAG below the warn threshold in NORMAL, toward NORMAL above warn + 0.5 V in SAG, toward SAG above cut +
1.0 V in CUT. At 10, 20, 2,000 and 1,000 the state changes and both counts start again: RAIL_CUT or RAIL_SAG
with half the measurement as detail, and at CUT the due strikes removed and every damper DOWN (shown for a
station with no figure and no hammer PULSING). That a measurement above 30.0 V counts as 30.0 V is the model's
reading (log entry 38). -/
def Obligations.RailIsJudgedByCounts : Prop :=
  ∀ (t volts : Nat) (s : State), Live t s → (∀ f, figRec s f = none) →
    (∀ b, ∀ e, (bellRun s b).hammer ≠ .pulsing e) →
    let v := min volts 300
    let warn := 220 - 10 * s.chr.warn
    let cut := 180 - 10 * s.chr.cut
    let count := fun (b : Bool) n => if b then n + 1 else 0
    let enter := fun rail down alt => { s with now := t, chr := { s.chr with
      rail := rail, cntDown := down, cntAlt := alt, lastMeas := v } }
    let down := count (if s.chr.rail = .cut then decide (cut + 10 < v) else decide (v < cut)) s.chr.cntDown
    let alt := count (if s.chr.rail = .normal then decide (v < warn) else decide (warn + 5 < v)) s.chr.cntAlt
    exec (.railMeasurement t volts) s = .next (match s.chr.rail with
      | .cut => if 1000 ≤ down then raiseFault .railSag (v / 2) (enter .sag 0 0) else enter .cut down 0
      | r =>
        if 10 ≤ down then
          let u := raiseFault .railCut (v / 2) (enter .cut 0 0)
          { u with
            bel := { s.bel with
              strikes := s.bel.strikes.filter fun e => decide ((t : Int) < e.fire)
              run := s.bel.run.map fun r => { r with damper := .down } }
            flt := { u.flt with
              suppressed := min 255 (s.flt.suppressed + (s.bel.strikes.filter fun e => decide (e.fire ≤ (t : Int))).length) } }
        else match r with
          | .normal => if 20 ≤ alt then raiseFault .railSag (v / 2) (enter .sag 0 0) else enter .normal down alt
          | _ => if 2000 ≤ alt then enter .normal 0 0 else enter .sag down alt)

/-- R133 to R136, R138, R139: whatever the state, every output is released until a configuration is accepted; then
one of kind OFF stays so, a HAMMER's is on while the hammer it is named for is PULSING, a DAMPER's while its damper
is not DOWN, a MOTOR_DIR's while the last direction is OUTWARD, a MOTOR_PWM's for 0.5 µs for each per cent of duty
from the start of its 50 µs period, a LAMP's for its level's share of its 1 ms period (log entry 33), a STROBE's
while a pulse is on. A lamp's level is 0 while the lamp hold is in force, at CLOSED but in a show of slot 2047. That a
fade that ends between two periods is discarded when its level is next worked is the model's choice (log entry 47),
and the output pins are views (log entry 35).
R136, R137, R139: at a lamp period each level is worked afresh, L0 + (L1 − L0) × t ÷ D rounded toward zero until t
reaches D, then L1 with the fade gone. A PWM period starts the drive pulse of each motor from now. At its pulse end
moment the strobe goes off. The phases of the periods are the model's choice (log entry 25). -/
def Obligations.OutputsFollowTheirPeriods : Prop :=
  (∀ (ch : Nat) (s : State),
    (lampHold s = true ↔ s.sck.level = .closed ∧ ¬(inShow s = true ∧ s.she.showRec.map (·.slot) = some 2047))
    ∧ lampOutput s ch = (if lampHold s then 0 else (lampAt s ch).level)
    ∧ (outputOn s ch = true ↔ s.iml.accepted = true ∧ match (chanRec s ch).kind with
      | .off => False
      | .hammer => ∃ b < 13, ∃ c e, bellRec s b = some c ∧ c.hammer = ch ∧ (bellRun s b).hammer = .pulsing e
      | .damper => ∃ b < 13, ∃ c, bellRec s b = some c ∧ c.damper = some ch ∧ (bellRun s b).damper ≠ .down
      | .motorPwm => ∃ f < 7, ∃ c, figRec s f = some c ∧ c.motor = ch
          ∧ 2 * (s.now - s.chr.pwmStart) < (figRun s f).duty
      | .motorDir => ∃ f < 7, ∃ c, figRec s f = some c ∧ c.dir = ch ∧ (figRun s f).lastOut = true
      | .lamp => s.now - s.chr.lampStart < lampOutput s ch * 1000 / 255
      | .strobe => s.chr.strobeEnd ≠ none))
  ∧ ∀ (t : Nat) (s : State), Live t s →
    ((∀ l ∈ s.chr.lamps, ∀ f, l.fade = some f → f.at_ ≤ t) → ∃ lamps, lamps.length = s.chr.lamps.length
      ∧ (∀ ch, match (lampAt s ch).fade with
        | none => lamps.getD ch ⟨0, none⟩ = lampAt s ch
        | some f => if f.at_ + f.dur ≤ t then lamps.getD ch ⟨0, none⟩ = ⟨f.target, none⟩
          else (lamps.getD ch ⟨0, none⟩).fade = some f ∧ ((lamps.getD ch ⟨0, none⟩).level : Int)
            = f.start + (((f.target : Int) - f.start) * ((t : Int) - f.at_)).tdiv f.dur)
      ∧ exec (.lampPeriod t) s = .next { s with now := t, chr := { s.chr with lampStart := t, lamps := lamps } })
    ∧ exec (.pwmPeriod t) s = .next { s with now := t, chr := { s.chr with pwmStart := t } }
    ∧ ∀ e, s.chr.strobeEnd = some e → exec (.strobePulseEnd t) s =
      .next { s with now := t, chr := { s.chr with strobeEnd := if e ≤ t then none else some e } }

/-! ## Bounds kept by every step -/

/-- The bounds that the spec gives counters, lists and the grade hold of the reset state. -/
def Obligations.ResetIsBounded : Prop :=
  Bounded State.reset

/-- R2, R39, R148, R154, R168, R169: whatever command is taken, in whatever state within them, the bounds hold
after the step: the grade within 1 to 15, the fault list at most 8, every counter at most 255, the transmit
queue at most 8. -/
def Obligations.EveryStepKeepsTheBounds : Prop :=
  ∀ s u : State, Bounded s → step s = .next u → Bounded u
end

