-- ==== Sys2Proof/Laws/State.lean ====
section
/-! SUPPORT. One lemma for each field and each update of `State`: what `State.at` and the eleven block updates
give and leave. -/

namespace Sys2Proof.Machine

variable (s : State)

@[simp] theorem State.at_now (t : Nat) : (s.at t).now = max s.now t := rfl
@[simp] theorem State.at_inReset (t : Nat) : (s.at t).inReset = s.inReset := rfl
@[simp] theorem State.at_iml (t : Nat) : (s.at t).iml = s.iml := rfl
@[simp] theorem State.at_sck (t : Nat) : (s.at t).sck = s.sck := rfl
@[simp] theorem State.at_she (t : Nat) : (s.at t).she = s.she := rfl
@[simp] theorem State.at_gtu (t : Nat) : (s.at t).gtu = s.gtu := rfl
@[simp] theorem State.at_csq (t : Nat) : (s.at t).csq = s.csq := rfl
@[simp] theorem State.at_bel (t : Nat) : (s.at t).bel = s.bel := rfl
@[simp] theorem State.at_fig (t : Nat) : (s.at t).fig = s.fig := rfl
@[simp] theorem State.at_zon (t : Nat) : (s.at t).zon = s.zon := rfl
@[simp] theorem State.at_chr (t : Nat) : (s.at t).chr = s.chr := rfl
@[simp] theorem State.at_bus (t : Nat) : (s.at t).bus = s.bus := rfl
@[simp] theorem State.at_flt (t : Nat) : (s.at t).flt = s.flt := rfl
@[simp] theorem State.at_pending (t : Nat) : (s.at t).pending = s.pending := rfl

@[simp] theorem State.modIml_now (f : Iml → Iml) : (s.modIml f).now = s.now := rfl
@[simp] theorem State.modIml_inReset (f : Iml → Iml) : (s.modIml f).inReset = s.inReset := rfl
@[simp] theorem State.modIml_iml (f : Iml → Iml) : (s.modIml f).iml = f s.iml := rfl
@[simp] theorem State.modIml_sck (f : Iml → Iml) : (s.modIml f).sck = s.sck := rfl
@[simp] theorem State.modIml_she (f : Iml → Iml) : (s.modIml f).she = s.she := rfl
@[simp] theorem State.modIml_gtu (f : Iml → Iml) : (s.modIml f).gtu = s.gtu := rfl
@[simp] theorem State.modIml_csq (f : Iml → Iml) : (s.modIml f).csq = s.csq := rfl
@[simp] theorem State.modIml_bel (f : Iml → Iml) : (s.modIml f).bel = s.bel := rfl
@[simp] theorem State.modIml_fig (f : Iml → Iml) : (s.modIml f).fig = s.fig := rfl
@[simp] theorem State.modIml_zon (f : Iml → Iml) : (s.modIml f).zon = s.zon := rfl
@[simp] theorem State.modIml_chr (f : Iml → Iml) : (s.modIml f).chr = s.chr := rfl
@[simp] theorem State.modIml_bus (f : Iml → Iml) : (s.modIml f).bus = s.bus := rfl
@[simp] theorem State.modIml_flt (f : Iml → Iml) : (s.modIml f).flt = s.flt := rfl
@[simp] theorem State.modIml_pending (f : Iml → Iml) : (s.modIml f).pending = s.pending := rfl

@[simp] theorem State.modSck_now (f : Sck → Sck) : (s.modSck f).now = s.now := rfl
@[simp] theorem State.modSck_inReset (f : Sck → Sck) : (s.modSck f).inReset = s.inReset := rfl
@[simp] theorem State.modSck_iml (f : Sck → Sck) : (s.modSck f).iml = s.iml := rfl
@[simp] theorem State.modSck_sck (f : Sck → Sck) : (s.modSck f).sck = f s.sck := rfl
@[simp] theorem State.modSck_she (f : Sck → Sck) : (s.modSck f).she = s.she := rfl
@[simp] theorem State.modSck_gtu (f : Sck → Sck) : (s.modSck f).gtu = s.gtu := rfl
@[simp] theorem State.modSck_csq (f : Sck → Sck) : (s.modSck f).csq = s.csq := rfl
@[simp] theorem State.modSck_bel (f : Sck → Sck) : (s.modSck f).bel = s.bel := rfl
@[simp] theorem State.modSck_fig (f : Sck → Sck) : (s.modSck f).fig = s.fig := rfl
@[simp] theorem State.modSck_zon (f : Sck → Sck) : (s.modSck f).zon = s.zon := rfl
@[simp] theorem State.modSck_chr (f : Sck → Sck) : (s.modSck f).chr = s.chr := rfl
@[simp] theorem State.modSck_bus (f : Sck → Sck) : (s.modSck f).bus = s.bus := rfl
@[simp] theorem State.modSck_flt (f : Sck → Sck) : (s.modSck f).flt = s.flt := rfl
@[simp] theorem State.modSck_pending (f : Sck → Sck) : (s.modSck f).pending = s.pending := rfl

@[simp] theorem State.modShe_now (f : She → She) : (s.modShe f).now = s.now := rfl
@[simp] theorem State.modShe_inReset (f : She → She) : (s.modShe f).inReset = s.inReset := rfl
@[simp] theorem State.modShe_iml (f : She → She) : (s.modShe f).iml = s.iml := rfl
@[simp] theorem State.modShe_sck (f : She → She) : (s.modShe f).sck = s.sck := rfl
@[simp] theorem State.modShe_she (f : She → She) : (s.modShe f).she = f s.she := rfl
@[simp] theorem State.modShe_gtu (f : She → She) : (s.modShe f).gtu = s.gtu := rfl
@[simp] theorem State.modShe_csq (f : She → She) : (s.modShe f).csq = s.csq := rfl
@[simp] theorem State.modShe_bel (f : She → She) : (s.modShe f).bel = s.bel := rfl
@[simp] theorem State.modShe_fig (f : She → She) : (s.modShe f).fig = s.fig := rfl
@[simp] theorem State.modShe_zon (f : She → She) : (s.modShe f).zon = s.zon := rfl
@[simp] theorem State.modShe_chr (f : She → She) : (s.modShe f).chr = s.chr := rfl
@[simp] theorem State.modShe_bus (f : She → She) : (s.modShe f).bus = s.bus := rfl
@[simp] theorem State.modShe_flt (f : She → She) : (s.modShe f).flt = s.flt := rfl
@[simp] theorem State.modShe_pending (f : She → She) : (s.modShe f).pending = s.pending := rfl

@[simp] theorem State.modGtu_now (f : Gtu → Gtu) : (s.modGtu f).now = s.now := rfl
@[simp] theorem State.modGtu_inReset (f : Gtu → Gtu) : (s.modGtu f).inReset = s.inReset := rfl
@[simp] theorem State.modGtu_iml (f : Gtu → Gtu) : (s.modGtu f).iml = s.iml := rfl
@[simp] theorem State.modGtu_sck (f : Gtu → Gtu) : (s.modGtu f).sck = s.sck := rfl
@[simp] theorem State.modGtu_she (f : Gtu → Gtu) : (s.modGtu f).she = s.she := rfl
@[simp] theorem State.modGtu_gtu (f : Gtu → Gtu) : (s.modGtu f).gtu = f s.gtu := rfl
@[simp] theorem State.modGtu_csq (f : Gtu → Gtu) : (s.modGtu f).csq = s.csq := rfl
@[simp] theorem State.modGtu_bel (f : Gtu → Gtu) : (s.modGtu f).bel = s.bel := rfl
@[simp] theorem State.modGtu_fig (f : Gtu → Gtu) : (s.modGtu f).fig = s.fig := rfl
@[simp] theorem State.modGtu_zon (f : Gtu → Gtu) : (s.modGtu f).zon = s.zon := rfl
@[simp] theorem State.modGtu_chr (f : Gtu → Gtu) : (s.modGtu f).chr = s.chr := rfl
@[simp] theorem State.modGtu_bus (f : Gtu → Gtu) : (s.modGtu f).bus = s.bus := rfl
@[simp] theorem State.modGtu_flt (f : Gtu → Gtu) : (s.modGtu f).flt = s.flt := rfl
@[simp] theorem State.modGtu_pending (f : Gtu → Gtu) : (s.modGtu f).pending = s.pending := rfl

@[simp] theorem State.modCsq_now (f : Csq → Csq) : (s.modCsq f).now = s.now := rfl
@[simp] theorem State.modCsq_inReset (f : Csq → Csq) : (s.modCsq f).inReset = s.inReset := rfl
@[simp] theorem State.modCsq_iml (f : Csq → Csq) : (s.modCsq f).iml = s.iml := rfl
@[simp] theorem State.modCsq_sck (f : Csq → Csq) : (s.modCsq f).sck = s.sck := rfl
@[simp] theorem State.modCsq_she (f : Csq → Csq) : (s.modCsq f).she = s.she := rfl
@[simp] theorem State.modCsq_gtu (f : Csq → Csq) : (s.modCsq f).gtu = s.gtu := rfl
@[simp] theorem State.modCsq_csq (f : Csq → Csq) : (s.modCsq f).csq = f s.csq := rfl
@[simp] theorem State.modCsq_bel (f : Csq → Csq) : (s.modCsq f).bel = s.bel := rfl
@[simp] theorem State.modCsq_fig (f : Csq → Csq) : (s.modCsq f).fig = s.fig := rfl
@[simp] theorem State.modCsq_zon (f : Csq → Csq) : (s.modCsq f).zon = s.zon := rfl
@[simp] theorem State.modCsq_chr (f : Csq → Csq) : (s.modCsq f).chr = s.chr := rfl
@[simp] theorem State.modCsq_bus (f : Csq → Csq) : (s.modCsq f).bus = s.bus := rfl
@[simp] theorem State.modCsq_flt (f : Csq → Csq) : (s.modCsq f).flt = s.flt := rfl
@[simp] theorem State.modCsq_pending (f : Csq → Csq) : (s.modCsq f).pending = s.pending := rfl

@[simp] theorem State.modBel_now (f : Bel → Bel) : (s.modBel f).now = s.now := rfl
@[simp] theorem State.modBel_inReset (f : Bel → Bel) : (s.modBel f).inReset = s.inReset := rfl
@[simp] theorem State.modBel_iml (f : Bel → Bel) : (s.modBel f).iml = s.iml := rfl
@[simp] theorem State.modBel_sck (f : Bel → Bel) : (s.modBel f).sck = s.sck := rfl
@[simp] theorem State.modBel_she (f : Bel → Bel) : (s.modBel f).she = s.she := rfl
@[simp] theorem State.modBel_gtu (f : Bel → Bel) : (s.modBel f).gtu = s.gtu := rfl
@[simp] theorem State.modBel_csq (f : Bel → Bel) : (s.modBel f).csq = s.csq := rfl
@[simp] theorem State.modBel_bel (f : Bel → Bel) : (s.modBel f).bel = f s.bel := rfl
@[simp] theorem State.modBel_fig (f : Bel → Bel) : (s.modBel f).fig = s.fig := rfl
@[simp] theorem State.modBel_zon (f : Bel → Bel) : (s.modBel f).zon = s.zon := rfl
@[simp] theorem State.modBel_chr (f : Bel → Bel) : (s.modBel f).chr = s.chr := rfl
@[simp] theorem State.modBel_bus (f : Bel → Bel) : (s.modBel f).bus = s.bus := rfl
@[simp] theorem State.modBel_flt (f : Bel → Bel) : (s.modBel f).flt = s.flt := rfl
@[simp] theorem State.modBel_pending (f : Bel → Bel) : (s.modBel f).pending = s.pending := rfl

@[simp] theorem State.modFig_now (f : Fig → Fig) : (s.modFig f).now = s.now := rfl
@[simp] theorem State.modFig_inReset (f : Fig → Fig) : (s.modFig f).inReset = s.inReset := rfl
@[simp] theorem State.modFig_iml (f : Fig → Fig) : (s.modFig f).iml = s.iml := rfl
@[simp] theorem State.modFig_sck (f : Fig → Fig) : (s.modFig f).sck = s.sck := rfl
@[simp] theorem State.modFig_she (f : Fig → Fig) : (s.modFig f).she = s.she := rfl
@[simp] theorem State.modFig_gtu (f : Fig → Fig) : (s.modFig f).gtu = s.gtu := rfl
@[simp] theorem State.modFig_csq (f : Fig → Fig) : (s.modFig f).csq = s.csq := rfl
@[simp] theorem State.modFig_bel (f : Fig → Fig) : (s.modFig f).bel = s.bel := rfl
@[simp] theorem State.modFig_fig (f : Fig → Fig) : (s.modFig f).fig = f s.fig := rfl
@[simp] theorem State.modFig_zon (f : Fig → Fig) : (s.modFig f).zon = s.zon := rfl
@[simp] theorem State.modFig_chr (f : Fig → Fig) : (s.modFig f).chr = s.chr := rfl
@[simp] theorem State.modFig_bus (f : Fig → Fig) : (s.modFig f).bus = s.bus := rfl
@[simp] theorem State.modFig_flt (f : Fig → Fig) : (s.modFig f).flt = s.flt := rfl
@[simp] theorem State.modFig_pending (f : Fig → Fig) : (s.modFig f).pending = s.pending := rfl

@[simp] theorem State.modZon_now (f : Zon → Zon) : (s.modZon f).now = s.now := rfl
@[simp] theorem State.modZon_inReset (f : Zon → Zon) : (s.modZon f).inReset = s.inReset := rfl
@[simp] theorem State.modZon_iml (f : Zon → Zon) : (s.modZon f).iml = s.iml := rfl
@[simp] theorem State.modZon_sck (f : Zon → Zon) : (s.modZon f).sck = s.sck := rfl
@[simp] theorem State.modZon_she (f : Zon → Zon) : (s.modZon f).she = s.she := rfl
@[simp] theorem State.modZon_gtu (f : Zon → Zon) : (s.modZon f).gtu = s.gtu := rfl
@[simp] theorem State.modZon_csq (f : Zon → Zon) : (s.modZon f).csq = s.csq := rfl
@[simp] theorem State.modZon_bel (f : Zon → Zon) : (s.modZon f).bel = s.bel := rfl
@[simp] theorem State.modZon_fig (f : Zon → Zon) : (s.modZon f).fig = s.fig := rfl
@[simp] theorem State.modZon_zon (f : Zon → Zon) : (s.modZon f).zon = f s.zon := rfl
@[simp] theorem State.modZon_chr (f : Zon → Zon) : (s.modZon f).chr = s.chr := rfl
@[simp] theorem State.modZon_bus (f : Zon → Zon) : (s.modZon f).bus = s.bus := rfl
@[simp] theorem State.modZon_flt (f : Zon → Zon) : (s.modZon f).flt = s.flt := rfl
@[simp] theorem State.modZon_pending (f : Zon → Zon) : (s.modZon f).pending = s.pending := rfl

@[simp] theorem State.modChr_now (f : Chr → Chr) : (s.modChr f).now = s.now := rfl
@[simp] theorem State.modChr_inReset (f : Chr → Chr) : (s.modChr f).inReset = s.inReset := rfl
@[simp] theorem State.modChr_iml (f : Chr → Chr) : (s.modChr f).iml = s.iml := rfl
@[simp] theorem State.modChr_sck (f : Chr → Chr) : (s.modChr f).sck = s.sck := rfl
@[simp] theorem State.modChr_she (f : Chr → Chr) : (s.modChr f).she = s.she := rfl
@[simp] theorem State.modChr_gtu (f : Chr → Chr) : (s.modChr f).gtu = s.gtu := rfl
@[simp] theorem State.modChr_csq (f : Chr → Chr) : (s.modChr f).csq = s.csq := rfl
@[simp] theorem State.modChr_bel (f : Chr → Chr) : (s.modChr f).bel = s.bel := rfl
@[simp] theorem State.modChr_fig (f : Chr → Chr) : (s.modChr f).fig = s.fig := rfl
@[simp] theorem State.modChr_zon (f : Chr → Chr) : (s.modChr f).zon = s.zon := rfl
@[simp] theorem State.modChr_chr (f : Chr → Chr) : (s.modChr f).chr = f s.chr := rfl
@[simp] theorem State.modChr_bus (f : Chr → Chr) : (s.modChr f).bus = s.bus := rfl
@[simp] theorem State.modChr_flt (f : Chr → Chr) : (s.modChr f).flt = s.flt := rfl
@[simp] theorem State.modChr_pending (f : Chr → Chr) : (s.modChr f).pending = s.pending := rfl

@[simp] theorem State.modBus_now (f : Bus → Bus) : (s.modBus f).now = s.now := rfl
@[simp] theorem State.modBus_inReset (f : Bus → Bus) : (s.modBus f).inReset = s.inReset := rfl
@[simp] theorem State.modBus_iml (f : Bus → Bus) : (s.modBus f).iml = s.iml := rfl
@[simp] theorem State.modBus_sck (f : Bus → Bus) : (s.modBus f).sck = s.sck := rfl
@[simp] theorem State.modBus_she (f : Bus → Bus) : (s.modBus f).she = s.she := rfl
@[simp] theorem State.modBus_gtu (f : Bus → Bus) : (s.modBus f).gtu = s.gtu := rfl
@[simp] theorem State.modBus_csq (f : Bus → Bus) : (s.modBus f).csq = s.csq := rfl
@[simp] theorem State.modBus_bel (f : Bus → Bus) : (s.modBus f).bel = s.bel := rfl
@[simp] theorem State.modBus_fig (f : Bus → Bus) : (s.modBus f).fig = s.fig := rfl
@[simp] theorem State.modBus_zon (f : Bus → Bus) : (s.modBus f).zon = s.zon := rfl
@[simp] theorem State.modBus_chr (f : Bus → Bus) : (s.modBus f).chr = s.chr := rfl
@[simp] theorem State.modBus_bus (f : Bus → Bus) : (s.modBus f).bus = f s.bus := rfl
@[simp] theorem State.modBus_flt (f : Bus → Bus) : (s.modBus f).flt = s.flt := rfl
@[simp] theorem State.modBus_pending (f : Bus → Bus) : (s.modBus f).pending = s.pending := rfl

@[simp] theorem State.modFlt_now (f : Flt → Flt) : (s.modFlt f).now = s.now := rfl
@[simp] theorem State.modFlt_inReset (f : Flt → Flt) : (s.modFlt f).inReset = s.inReset := rfl
@[simp] theorem State.modFlt_iml (f : Flt → Flt) : (s.modFlt f).iml = s.iml := rfl
@[simp] theorem State.modFlt_sck (f : Flt → Flt) : (s.modFlt f).sck = s.sck := rfl
@[simp] theorem State.modFlt_she (f : Flt → Flt) : (s.modFlt f).she = s.she := rfl
@[simp] theorem State.modFlt_gtu (f : Flt → Flt) : (s.modFlt f).gtu = s.gtu := rfl
@[simp] theorem State.modFlt_csq (f : Flt → Flt) : (s.modFlt f).csq = s.csq := rfl
@[simp] theorem State.modFlt_bel (f : Flt → Flt) : (s.modFlt f).bel = s.bel := rfl
@[simp] theorem State.modFlt_fig (f : Flt → Flt) : (s.modFlt f).fig = s.fig := rfl
@[simp] theorem State.modFlt_zon (f : Flt → Flt) : (s.modFlt f).zon = s.zon := rfl
@[simp] theorem State.modFlt_chr (f : Flt → Flt) : (s.modFlt f).chr = s.chr := rfl
@[simp] theorem State.modFlt_bus (f : Flt → Flt) : (s.modFlt f).bus = s.bus := rfl
@[simp] theorem State.modFlt_flt (f : Flt → Flt) : (s.modFlt f).flt = f s.flt := rfl
@[simp] theorem State.modFlt_pending (f : Flt → Flt) : (s.modFlt f).pending = s.pending := rfl

end Sys2Proof.Machine
end

