-- ==== Sys2Proof/Laws/Ops.lean ====
section
/-! SUPPORT. What the shared operations leave as it was, field by field, and what raising a fault and queueing a
frame come to: cited in place of unfolding them. -/

namespace Sys2Proof.Machine

variable (s : State)

@[simp] theorem recordFault_now (c : FaultCode) (d : Nat) : (recordFault c d s).now = s.now := rfl
@[simp] theorem recordFault_inReset (c : FaultCode) (d : Nat) : (recordFault c d s).inReset = s.inReset := rfl
@[simp] theorem recordFault_iml (c : FaultCode) (d : Nat) : (recordFault c d s).iml = s.iml := rfl
@[simp] theorem recordFault_sck (c : FaultCode) (d : Nat) : (recordFault c d s).sck = s.sck := rfl
@[simp] theorem recordFault_she (c : FaultCode) (d : Nat) : (recordFault c d s).she = s.she := rfl
@[simp] theorem recordFault_gtu (c : FaultCode) (d : Nat) : (recordFault c d s).gtu = s.gtu := rfl
@[simp] theorem recordFault_csq (c : FaultCode) (d : Nat) : (recordFault c d s).csq = s.csq := rfl
@[simp] theorem recordFault_bel (c : FaultCode) (d : Nat) : (recordFault c d s).bel = s.bel := rfl
@[simp] theorem recordFault_fig (c : FaultCode) (d : Nat) : (recordFault c d s).fig = s.fig := rfl
@[simp] theorem recordFault_zon (c : FaultCode) (d : Nat) : (recordFault c d s).zon = s.zon := rfl
@[simp] theorem recordFault_chr (c : FaultCode) (d : Nat) : (recordFault c d s).chr = s.chr := rfl
@[simp] theorem recordFault_bus (c : FaultCode) (d : Nat) : (recordFault c d s).bus = s.bus := rfl
@[simp] theorem recordFault_pending (c : FaultCode) (d : Nat) : (recordFault c d s).pending = s.pending := rfl

@[simp] theorem appendFrame_now (c : Content) : (appendFrame c s).now = s.now := rfl
@[simp] theorem appendFrame_inReset (c : Content) : (appendFrame c s).inReset = s.inReset := rfl
@[simp] theorem appendFrame_iml (c : Content) : (appendFrame c s).iml = s.iml := rfl
@[simp] theorem appendFrame_sck (c : Content) : (appendFrame c s).sck = s.sck := rfl
@[simp] theorem appendFrame_she (c : Content) : (appendFrame c s).she = s.she := rfl
@[simp] theorem appendFrame_gtu (c : Content) : (appendFrame c s).gtu = s.gtu := rfl
@[simp] theorem appendFrame_csq (c : Content) : (appendFrame c s).csq = s.csq := rfl
@[simp] theorem appendFrame_bel (c : Content) : (appendFrame c s).bel = s.bel := rfl
@[simp] theorem appendFrame_fig (c : Content) : (appendFrame c s).fig = s.fig := rfl
@[simp] theorem appendFrame_zon (c : Content) : (appendFrame c s).zon = s.zon := rfl
@[simp] theorem appendFrame_chr (c : Content) : (appendFrame c s).chr = s.chr := rfl
@[simp] theorem appendFrame_flt (c : Content) : (appendFrame c s).flt = s.flt := rfl
@[simp] theorem appendFrame_pending (c : Content) : (appendFrame c s).pending = s.pending := rfl

/-- A fault raised changes the fault unit, and the transmit queue by at most its FAULT frame (R168, R171). -/
theorem raiseFault_eq (c : FaultCode) (d : Nat) :
    raiseFault c d s = { s with flt := (raiseFault c d s).flt, bus := (raiseFault c d s).bus } := by
  simp only [raiseFault]
  split
  · split <;> rfl
  · rfl

@[simp] theorem raiseFault_now (c : FaultCode) (d : Nat) : (raiseFault c d s).now = s.now := by
  rw [raiseFault_eq]
@[simp] theorem raiseFault_inReset (c : FaultCode) (d : Nat) : (raiseFault c d s).inReset = s.inReset := by
  rw [raiseFault_eq]
@[simp] theorem raiseFault_iml (c : FaultCode) (d : Nat) : (raiseFault c d s).iml = s.iml := by
  rw [raiseFault_eq]
@[simp] theorem raiseFault_sck (c : FaultCode) (d : Nat) : (raiseFault c d s).sck = s.sck := by
  rw [raiseFault_eq]
@[simp] theorem raiseFault_she (c : FaultCode) (d : Nat) : (raiseFault c d s).she = s.she := by
  rw [raiseFault_eq]
@[simp] theorem raiseFault_gtu (c : FaultCode) (d : Nat) : (raiseFault c d s).gtu = s.gtu := by
  rw [raiseFault_eq]
@[simp] theorem raiseFault_csq (c : FaultCode) (d : Nat) : (raiseFault c d s).csq = s.csq := by
  rw [raiseFault_eq]
@[simp] theorem raiseFault_bel (c : FaultCode) (d : Nat) : (raiseFault c d s).bel = s.bel := by
  rw [raiseFault_eq]
@[simp] theorem raiseFault_fig (c : FaultCode) (d : Nat) : (raiseFault c d s).fig = s.fig := by
  rw [raiseFault_eq]
@[simp] theorem raiseFault_zon (c : FaultCode) (d : Nat) : (raiseFault c d s).zon = s.zon := by
  rw [raiseFault_eq]
@[simp] theorem raiseFault_chr (c : FaultCode) (d : Nat) : (raiseFault c d s).chr = s.chr := by
  rw [raiseFault_eq]
@[simp] theorem raiseFault_pending (c : FaultCode) (d : Nat) : (raiseFault c d s).pending = s.pending := by
  rw [raiseFault_eq]

@[simp] theorem addSuppressed_now (n : Nat) : (addSuppressed n s).now = s.now := rfl
@[simp] theorem addSuppressed_inReset (n : Nat) : (addSuppressed n s).inReset = s.inReset := rfl
@[simp] theorem addSuppressed_iml (n : Nat) : (addSuppressed n s).iml = s.iml := rfl
@[simp] theorem addSuppressed_sck (n : Nat) : (addSuppressed n s).sck = s.sck := rfl
@[simp] theorem addSuppressed_she (n : Nat) : (addSuppressed n s).she = s.she := rfl
@[simp] theorem addSuppressed_gtu (n : Nat) : (addSuppressed n s).gtu = s.gtu := rfl
@[simp] theorem addSuppressed_csq (n : Nat) : (addSuppressed n s).csq = s.csq := rfl
@[simp] theorem addSuppressed_bel (n : Nat) : (addSuppressed n s).bel = s.bel := rfl
@[simp] theorem addSuppressed_fig (n : Nat) : (addSuppressed n s).fig = s.fig := rfl
@[simp] theorem addSuppressed_zon (n : Nat) : (addSuppressed n s).zon = s.zon := rfl
@[simp] theorem addSuppressed_chr (n : Nat) : (addSuppressed n s).chr = s.chr := rfl
@[simp] theorem addSuppressed_bus (n : Nat) : (addSuppressed n s).bus = s.bus := rfl
@[simp] theorem addSuppressed_pending (n : Nat) : (addSuppressed n s).pending = s.pending := rfl

@[simp] theorem addMoveSkipped_now  : (addMoveSkipped s).now = s.now := rfl
@[simp] theorem addMoveSkipped_inReset  : (addMoveSkipped s).inReset = s.inReset := rfl
@[simp] theorem addMoveSkipped_iml  : (addMoveSkipped s).iml = s.iml := rfl
@[simp] theorem addMoveSkipped_sck  : (addMoveSkipped s).sck = s.sck := rfl
@[simp] theorem addMoveSkipped_she  : (addMoveSkipped s).she = s.she := rfl
@[simp] theorem addMoveSkipped_gtu  : (addMoveSkipped s).gtu = s.gtu := rfl
@[simp] theorem addMoveSkipped_csq  : (addMoveSkipped s).csq = s.csq := rfl
@[simp] theorem addMoveSkipped_bel  : (addMoveSkipped s).bel = s.bel := rfl
@[simp] theorem addMoveSkipped_fig  : (addMoveSkipped s).fig = s.fig := rfl
@[simp] theorem addMoveSkipped_zon  : (addMoveSkipped s).zon = s.zon := rfl
@[simp] theorem addMoveSkipped_chr  : (addMoveSkipped s).chr = s.chr := rfl
@[simp] theorem addMoveSkipped_bus  : (addMoveSkipped s).bus = s.bus := rfl
@[simp] theorem addMoveSkipped_pending  : (addMoveSkipped s).pending = s.pending := rfl

@[simp] theorem enterIdle_now  : (enterIdle s).now = s.now := rfl
@[simp] theorem enterIdle_inReset  : (enterIdle s).inReset = s.inReset := rfl
@[simp] theorem enterIdle_iml  : (enterIdle s).iml = s.iml := rfl
@[simp] theorem enterIdle_sck  : (enterIdle s).sck = s.sck := rfl
@[simp] theorem enterIdle_gtu  : (enterIdle s).gtu = s.gtu := rfl
@[simp] theorem enterIdle_csq  : (enterIdle s).csq = s.csq := rfl
@[simp] theorem enterIdle_bel  : (enterIdle s).bel = s.bel := rfl
@[simp] theorem enterIdle_zon  : (enterIdle s).zon = s.zon := rfl
@[simp] theorem enterIdle_chr  : (enterIdle s).chr = s.chr := rfl
@[simp] theorem enterIdle_bus  : (enterIdle s).bus = s.bus := rfl
@[simp] theorem enterIdle_flt  : (enterIdle s).flt = s.flt := rfl
@[simp] theorem enterIdle_pending  : (enterIdle s).pending = s.pending := rfl

/-- A write of the last-slot record changes nothing but the Station Clock (R10). -/
theorem writeLastSlot_eq (a b : Nat) : writeLastSlot a b s = { s with sck := (writeLastSlot a b s).sck } := by
  unfold writeLastSlot
  split <;> rfl

@[simp] theorem writeLastSlot_now (a b : Nat) : (writeLastSlot a b s).now = s.now := by
  rw [writeLastSlot_eq]
@[simp] theorem writeLastSlot_inReset (a b : Nat) : (writeLastSlot a b s).inReset = s.inReset := by
  rw [writeLastSlot_eq]
@[simp] theorem writeLastSlot_iml (a b : Nat) : (writeLastSlot a b s).iml = s.iml := by
  rw [writeLastSlot_eq]
@[simp] theorem writeLastSlot_she (a b : Nat) : (writeLastSlot a b s).she = s.she := by
  rw [writeLastSlot_eq]
@[simp] theorem writeLastSlot_gtu (a b : Nat) : (writeLastSlot a b s).gtu = s.gtu := by
  rw [writeLastSlot_eq]
@[simp] theorem writeLastSlot_csq (a b : Nat) : (writeLastSlot a b s).csq = s.csq := by
  rw [writeLastSlot_eq]
@[simp] theorem writeLastSlot_bel (a b : Nat) : (writeLastSlot a b s).bel = s.bel := by
  rw [writeLastSlot_eq]
@[simp] theorem writeLastSlot_fig (a b : Nat) : (writeLastSlot a b s).fig = s.fig := by
  rw [writeLastSlot_eq]
@[simp] theorem writeLastSlot_zon (a b : Nat) : (writeLastSlot a b s).zon = s.zon := by
  rw [writeLastSlot_eq]
@[simp] theorem writeLastSlot_chr (a b : Nat) : (writeLastSlot a b s).chr = s.chr := by
  rw [writeLastSlot_eq]
@[simp] theorem writeLastSlot_bus (a b : Nat) : (writeLastSlot a b s).bus = s.bus := by
  rw [writeLastSlot_eq]
@[simp] theorem writeLastSlot_flt (a b : Nat) : (writeLastSlot a b s).flt = s.flt := by
  rw [writeLastSlot_eq]
@[simp] theorem writeLastSlot_pending (a b : Nat) : (writeLastSlot a b s).pending = s.pending := by
  rw [writeLastSlot_eq]

/-- An owner's removal changes nothing but the transmit queue (R151). -/
theorem removeFrame_eq (i : Nat) : removeFrame i s = { s with bus := (removeFrame i s).bus } := by
  unfold removeFrame
  split <;> rfl

@[simp] theorem removeFrame_now (i : Nat) : (removeFrame i s).now = s.now := by
  rw [removeFrame_eq]
@[simp] theorem removeFrame_inReset (i : Nat) : (removeFrame i s).inReset = s.inReset := by
  rw [removeFrame_eq]
@[simp] theorem removeFrame_iml (i : Nat) : (removeFrame i s).iml = s.iml := by
  rw [removeFrame_eq]
@[simp] theorem removeFrame_sck (i : Nat) : (removeFrame i s).sck = s.sck := by
  rw [removeFrame_eq]
@[simp] theorem removeFrame_she (i : Nat) : (removeFrame i s).she = s.she := by
  rw [removeFrame_eq]
@[simp] theorem removeFrame_gtu (i : Nat) : (removeFrame i s).gtu = s.gtu := by
  rw [removeFrame_eq]
@[simp] theorem removeFrame_csq (i : Nat) : (removeFrame i s).csq = s.csq := by
  rw [removeFrame_eq]
@[simp] theorem removeFrame_bel (i : Nat) : (removeFrame i s).bel = s.bel := by
  rw [removeFrame_eq]
@[simp] theorem removeFrame_fig (i : Nat) : (removeFrame i s).fig = s.fig := by
  rw [removeFrame_eq]
@[simp] theorem removeFrame_zon (i : Nat) : (removeFrame i s).zon = s.zon := by
  rw [removeFrame_eq]
@[simp] theorem removeFrame_chr (i : Nat) : (removeFrame i s).chr = s.chr := by
  rw [removeFrame_eq]
@[simp] theorem removeFrame_flt (i : Nat) : (removeFrame i s).flt = s.flt := by
  rw [removeFrame_eq]
@[simp] theorem removeFrame_pending (i : Nat) : (removeFrame i s).pending = s.pending := by
  rw [removeFrame_eq]

@[simp] theorem removeFrames_now (p : Content → Bool) : (removeFrames p s).now = s.now := rfl
@[simp] theorem removeFrames_inReset (p : Content → Bool) : (removeFrames p s).inReset = s.inReset := rfl
@[simp] theorem removeFrames_iml (p : Content → Bool) : (removeFrames p s).iml = s.iml := rfl
@[simp] theorem removeFrames_sck (p : Content → Bool) : (removeFrames p s).sck = s.sck := rfl
@[simp] theorem removeFrames_she (p : Content → Bool) : (removeFrames p s).she = s.she := rfl
@[simp] theorem removeFrames_gtu (p : Content → Bool) : (removeFrames p s).gtu = s.gtu := rfl
@[simp] theorem removeFrames_csq (p : Content → Bool) : (removeFrames p s).csq = s.csq := rfl
@[simp] theorem removeFrames_bel (p : Content → Bool) : (removeFrames p s).bel = s.bel := rfl
@[simp] theorem removeFrames_fig (p : Content → Bool) : (removeFrames p s).fig = s.fig := rfl
@[simp] theorem removeFrames_zon (p : Content → Bool) : (removeFrames p s).zon = s.zon := rfl
@[simp] theorem removeFrames_chr (p : Content → Bool) : (removeFrames p s).chr = s.chr := rfl
@[simp] theorem removeFrames_flt (p : Content → Bool) : (removeFrames p s).flt = s.flt := rfl
@[simp] theorem removeFrames_pending (p : Content → Bool) : (removeFrames p s).pending = s.pending := rfl

@[simp] theorem modFigRun_now (f : Nat) (g : FigRun → FigRun) : (modFigRun f g s).now = s.now := rfl
@[simp] theorem modFigRun_inReset (f : Nat) (g : FigRun → FigRun) : (modFigRun f g s).inReset = s.inReset := rfl
@[simp] theorem modFigRun_iml (f : Nat) (g : FigRun → FigRun) : (modFigRun f g s).iml = s.iml := rfl
@[simp] theorem modFigRun_sck (f : Nat) (g : FigRun → FigRun) : (modFigRun f g s).sck = s.sck := rfl
@[simp] theorem modFigRun_she (f : Nat) (g : FigRun → FigRun) : (modFigRun f g s).she = s.she := rfl
@[simp] theorem modFigRun_gtu (f : Nat) (g : FigRun → FigRun) : (modFigRun f g s).gtu = s.gtu := rfl
@[simp] theorem modFigRun_csq (f : Nat) (g : FigRun → FigRun) : (modFigRun f g s).csq = s.csq := rfl
@[simp] theorem modFigRun_bel (f : Nat) (g : FigRun → FigRun) : (modFigRun f g s).bel = s.bel := rfl
@[simp] theorem modFigRun_zon (f : Nat) (g : FigRun → FigRun) : (modFigRun f g s).zon = s.zon := rfl
@[simp] theorem modFigRun_chr (f : Nat) (g : FigRun → FigRun) : (modFigRun f g s).chr = s.chr := rfl
@[simp] theorem modFigRun_bus (f : Nat) (g : FigRun → FigRun) : (modFigRun f g s).bus = s.bus := rfl
@[simp] theorem modFigRun_flt (f : Nat) (g : FigRun → FigRun) : (modFigRun f g s).flt = s.flt := rfl
@[simp] theorem modFigRun_pending (f : Nat) (g : FigRun → FigRun) : (modFigRun f g s).pending = s.pending := rfl

@[simp] theorem modBellRun_now (b : Nat) (g : BellRun → BellRun) : (modBellRun b g s).now = s.now := rfl
@[simp] theorem modBellRun_inReset (b : Nat) (g : BellRun → BellRun) : (modBellRun b g s).inReset = s.inReset :=
    rfl
@[simp] theorem modBellRun_iml (b : Nat) (g : BellRun → BellRun) : (modBellRun b g s).iml = s.iml := rfl
@[simp] theorem modBellRun_sck (b : Nat) (g : BellRun → BellRun) : (modBellRun b g s).sck = s.sck := rfl
@[simp] theorem modBellRun_she (b : Nat) (g : BellRun → BellRun) : (modBellRun b g s).she = s.she := rfl
@[simp] theorem modBellRun_gtu (b : Nat) (g : BellRun → BellRun) : (modBellRun b g s).gtu = s.gtu := rfl
@[simp] theorem modBellRun_csq (b : Nat) (g : BellRun → BellRun) : (modBellRun b g s).csq = s.csq := rfl
@[simp] theorem modBellRun_fig (b : Nat) (g : BellRun → BellRun) : (modBellRun b g s).fig = s.fig := rfl
@[simp] theorem modBellRun_zon (b : Nat) (g : BellRun → BellRun) : (modBellRun b g s).zon = s.zon := rfl
@[simp] theorem modBellRun_chr (b : Nat) (g : BellRun → BellRun) : (modBellRun b g s).chr = s.chr := rfl
@[simp] theorem modBellRun_bus (b : Nat) (g : BellRun → BellRun) : (modBellRun b g s).bus = s.bus := rfl
@[simp] theorem modBellRun_flt (b : Nat) (g : BellRun → BellRun) : (modBellRun b g s).flt = s.flt := rfl
@[simp] theorem modBellRun_pending (b : Nat) (g : BellRun → BellRun) : (modBellRun b g s).pending = s.pending :=
    rfl

/-- A frame that finds room enters as the youngest of the queue; nothing is lost (R156). -/
theorem queueFrame_room (c : Content) (h : s.bus.queue.length < 8) :
    queueFrame c s = { s with bus := { s.bus with
      queue := s.bus.queue ++ [⟨s.bus.nextId, c⟩], nextId := s.bus.nextId + 1 } } := by
  simp [queueFrame, queueEntry, h, State.modBus]

/-- A fault that brings no FAULT frame is its record and its count. -/
theorem raiseFault_quiet (c : FaultCode) (d : Nat) (h : reportsFault s c d = false) :
    raiseFault c d s = recordFault c d s := by
  simp [raiseFault, h]

/-- A fault's record stands at the head of the list, unless its FAULT frame was refused. -/
theorem raiseFault_room (c : FaultCode) (d : Nat) (h : s.bus.queue.length < 8) :
    raiseFault c d s = if reportsFault s c d then appendFrame (.fault c d) (recordFault c d s)
      else recordFault c d s := by
  simp [raiseFault, h]

/-- The gate record changed, where there is one. -/
theorem modGate_some {s : State} {g : GateRec} (h : s.gtu.gate = some g) (f : GateRec → GateRec) :
    modGate f s = { s with gtu := { s.gtu with gate := some (f g) } } := by
  simp [modGate, State.modGtu, h]

/-- The station may send exactly in the sending states. -/
theorem maySend_iff : maySend s = true ↔ Sends s := by
  simp [maySend, Sends]

/-- The frames that are a TIME. -/
theorem isTime_iff (c : Content) : isTime c = true ↔ ∃ v, c = .time v := by
  cases c <;> simp [isTime]

/-- The frames that are a STATUS. -/
theorem isStatus_iff (c : Content) : isStatus c = true ↔ ∃ n l, c = .status n l := by
  cases c <;> simp [isStatus]

/-- The operating level, by the terms of Safety (R5). -/
theorem levelOf_eq : levelOf s
    = levelAt (entryInForce s) s.sck.grade s.sck.quiet.isSome (minuteOfDay s) := by
  unfold levelOf levelAt
  cases entryInForce s with
  | none => rfl
  | some e =>
    by_cases g : s.sck.grade = 15
    · simp [g]
    · by_cases h1 : e.openFrom ≤ minuteOfDay s ∧ minuteOfDay s < e.quietFrom
      · simp [g, minuteLevel, h1]
      · by_cases h2 : e.quietFrom ≤ minuteOfDay s ∧ minuteOfDay s < e.closedFrom <;>
          simp [g, minuteLevel, h1, h2]

/-- A read that gave its whole area reads as it was given. -/
theorem readBytes_self (n : Nat) (d : List Byte) (h : d.length = n) : readBytes n d = d := by
  subst h
  unfold readBytes
  apply List.ext_getElem <;> simp
  intro i h1
  simp [h1]

/-- A silent read: some byte, and every one FFh (R59). -/
theorem noAnswer_iff {d : List Byte} : noAnswer d = true ↔ d ≠ [] ∧ ∀ b ∈ d, b = 0xFF := by
  simp [noAnswer]

end Sys2Proof.Machine
end

