-- ==== Sys2Proof/Laws/Run.lean ====
section
/-! SUPPORT. What a command's meaning comes to under the terms of Safety: a live event, an event with no zones to
try, a good frame heard. -/

namespace Sys2Proof.Machine

/-- A live event is its effect at its moment. -/
theorem event_live {t : Nat} {s : State} (h : Live t s) (f : State → State) :
    event t f s = .next (f { s with now := t }) := by
  simp [event, h.1, State.at, Nat.max_eq_right h.2]

/-- With no trial owed and no grant waiting the rounds of trials change nothing. -/
theorem settleZones_rest {s : State} (h : ZonesAtRest s) (n : Nat) : settleZones n s = s := by
  cases n with
  | zero => rfl
  | succ n => simp [settleZones, h.1, h.2]

/-- One owed trial over an empty list, with no grant waiting, leaves the state but for the trial owed. -/
theorem settleZones_empty {s : State} (hr : s.zon.reqs = []) (hg : s.zon.granted = []) (n : Nat) :
    settleZones (n + 2) s = s.modZon fun z => { z with trialDue := false } := by
  rcases s with ⟨now, r, iml, sck, she, gtu, csq, bel, fig, zon, chr, bus, flt, pend⟩
  rcases zon with ⟨v, rq, ra, mk, rl, cr, td, gr⟩
  cases td <;> simp_all [settleZones, tryList, handGrants, State.modZon]

/-- A live event of a zone command whose effect owes no trial and grants nothing. -/
theorem zoneEvent_rest {t : Nat} {s : State} (h : Live t s) (f : State → State)
    (hr : ZonesAtRest (f { s with now := t })) : zoneEvent t f s = .next (f { s with now := t }) := by
  simp [zoneEvent, event_live h, settleZones_rest hr]

/-- A good frame heard goes to its owner. -/
theorem hear_of_hears {t : Nat} {src : Byte} {s : State} (h : Hears t src s) (b : Bool)
    (owner : State → State) : hear src b owner { s with now := t } = owner (heardAt t src s) := by
  obtain ⟨hl, hr, ht, hs, hn⟩ := h
  have hr1 : receives { s with now := t } = true := by simp [receives, isSending, hr, ht]
  have hown : isStation src.toNat = true → src.toNat ≠ ownNo s := by
    intro hst he
    cases hnum : s.iml.number with
    | none => simp [ownNo, hnum] at he; simp [isStation, he] at hst
    | some n => simp [ownNo, hnum] at he; exact hn (by rw [hnum, he])
  have : peerHeard src.toNat (frameEnds { s with now := t }) = heardAt t src s := by
    by_cases hst : isStation src.toNat = true
    · have h1 : 1 ≤ src.toNat ∧ src.toNat ≤ 30 := by simpa [isStation] using hst
      have h2 : src.toNat ≠ ownNo (frameEnds { s with now := t }) := hown hst
      simp only [peerHeard, hst, h2, ne_eq, not_false_eq_true, and_self, if_true, heardAt, Bus.afterFrame, h1]
      rfl
    · have h1 : ¬(1 ≤ src.toNat ∧ src.toNat ≤ 30) := by simpa [isStation] using hst
      simp only [peerHeard, hst, heardAt, Bus.afterFrame, h1, if_false]
      rfl
  simp only [hear, hr1, if_true]
  rw [if_neg hs, if_neg hn, this]

/-- What a good frame heard leaves as it was. -/
@[simp] theorem heardAt_iml (t : Nat) (src : Byte) (s : State) : (heardAt t src s).iml = s.iml := rfl
@[simp] theorem heardAt_sck (t : Nat) (src : Byte) (s : State) : (heardAt t src s).sck = s.sck := rfl
@[simp] theorem heardAt_she (t : Nat) (src : Byte) (s : State) : (heardAt t src s).she = s.she := rfl
@[simp] theorem heardAt_gtu (t : Nat) (src : Byte) (s : State) : (heardAt t src s).gtu = s.gtu := rfl
@[simp] theorem heardAt_csq (t : Nat) (src : Byte) (s : State) : (heardAt t src s).csq = s.csq := rfl
@[simp] theorem heardAt_bel (t : Nat) (src : Byte) (s : State) : (heardAt t src s).bel = s.bel := rfl
@[simp] theorem heardAt_fig (t : Nat) (src : Byte) (s : State) : (heardAt t src s).fig = s.fig := rfl
@[simp] theorem heardAt_zon (t : Nat) (src : Byte) (s : State) : (heardAt t src s).zon = s.zon := rfl
@[simp] theorem heardAt_chr (t : Nat) (src : Byte) (s : State) : (heardAt t src s).chr = s.chr := rfl
@[simp] theorem heardAt_flt (t : Nat) (src : Byte) (s : State) : (heardAt t src s).flt = s.flt := rfl
@[simp] theorem heardAt_now (t : Nat) (src : Byte) (s : State) : (heardAt t src s).now = t := rfl
@[simp] theorem heardAt_queue (t : Nat) (src : Byte) (s : State) :
    (heardAt t src s).bus.queue = s.bus.queue := rfl

/-- A station in a sending state may send. -/
theorem maySend_of_sends {s : State} (h : Sends s) : maySend s = true := by
  rcases h with h | ⟨h, m⟩ <;> simp [maySend, *]

end Sys2Proof.Machine
end

