-- ==== Sys2Proof/Laws/Blocks.lean ====
section
/-! SUPPORT. What the operations of the blocks come to, one lemma an operation, in the terms of Safety: sets,
gates, frames, strikes, figures, zones. -/

namespace Sys2Proof.Machine

/-- A reading in ms: its day and its minute of the day, by its minute. -/
theorem day_minute_of_ms (ms : Nat) :
    ms / 86400000 = ms / 60000 / 1440 ∧ ms % 86400000 / 60000 = ms / 60000 % 1440 := by
  omega

/-- A fold of figure updates changes nothing but the Figure Unit. -/
theorem foldl_fig (F : Nat → State → State) (hF : ∀ f s, ∃ g, F f s = { s with fig := g }) (l : List Nat)
    (s : State) :
    ∃ g, l.foldl (fun s f => F f s) s = { s with fig := g } := by
  induction l generalizing s with
  | nil => exact ⟨s.fig, rfl⟩
  | cons a l ih =>
    simp only [List.foldl_cons]
    obtain ⟨g1, h1⟩ := hF a s
    obtain ⟨g, hg⟩ := ih (F a s)
    exact ⟨g, by rw [hg, h1]⟩

/-- Muting the figures changes nothing but the Figure Unit (R114). -/
theorem muteFigures_frame (s : State) : ∃ g, muteFigures s = { s with fig := g } :=
  foldl_fig (fun f s => modFigRun f (muteFigure s.now) s) (fun _ _ => ⟨_, rfl⟩) _ s

/-- A slot moment changes the engine, the fault unit and the bus only (R8, R20). -/
theorem raiseSlot_frame (id d : Nat) (s : State) :
    ∃ h f b, raiseSlot id d s = { s with she := h, flt := f, bus := b } := by
  unfold raiseSlot slotMoment
  split
  · split
    · split <;> exact ⟨_, _, _, rfl⟩
    all_goals (rw [raiseFault_eq]; exact ⟨_, _, _, rfl⟩)
  · exact ⟨_, _, _, rfl⟩

/-- The slots of a forward step change the engine, the fault unit and the bus only (R13). -/
theorem stepSlots_frame (a b : Nat) (s : State) :
    ∃ h f b', stepSlots a b s = { s with she := h, flt := f, bus := b' } := by
  unfold stepSlots
  simp only
  have h1 : ∀ (m : Nat), ∃ f b', (if m = 0 then s else raiseFault .slotMissed (min m 255) s) =
      { s with flt := f, bus := b' } := by
    intro m; split
    · exact ⟨_, _, rfl⟩
    · rw [raiseFault_eq]; exact ⟨_, _, rfl⟩
  obtain ⟨f, b', hf⟩ := h1 (momentsUpTo s.sck.slots b - momentsUpTo s.sck.slots a -
        if (inGrace a b && listed s.sck.slots (b / Config.minuteMs % 1440)) = true then 1 else 0)
  rw [hf]
  split
  · obtain ⟨h, f2, b2, e⟩ := raiseSlot_frame (b / Config.minuteMs % 1440) (b / Config.minuteMs / 1440)
        { s with flt := f, bus := b' }
    rw [e]; exact ⟨_, _, _, rfl⟩
  · exact ⟨_, _, _, rfl⟩

/-- The lamp hold judged by a new level: the lamps in the terms of Safety (R138). -/
theorem judgeHold_level (lv : Level) (s : State) : judgeHold s { s with sck := { s.sck with level := lv } } =
    { s with sck := { s.sck with level := lv }, chr := { s.chr with lamps := lampsAt s.now lv s } } := by
  have hh : ∀ u : State, (lampHold u = true ↔ u.sck.level = .closed
      ∧ ¬(inShow u = true ∧ u.she.showRec.map (·.slot) = some 2047)) := by
    intro u
    cases hi : inShow u <;> simp [lampHold, serviceShow, Config.serviceSlot, hi]
  by_cases h : s.sck.level = .closed ∧ lv ≠ .closed ∧ ¬(inShow s = true ∧ s.she.showRec.map (·.slot) = some 2047)
  · rw [judgeHold, if_pos ⟨(hh s).2 ⟨h.1, h.2.2⟩, by
      rw [← Bool.not_eq_true, hh]; exact fun x => h.2.1 x.1⟩, lampsAt, if_pos h]
    rfl
  · rw [judgeHold, if_neg, lampsAt, if_neg h]
    rintro ⟨x, y⟩
    obtain ⟨x1, x2⟩ := (hh s).1 x
    refine h ⟨x1, fun e => ?_, x2⟩
    rw [← Bool.not_eq_true, hh] at y
    exact y ⟨e, x2⟩

/-- The level recomputed, and the lamps by it (R5, R138). -/
theorem recomputeLevel_eq (s : State) : recomputeLevel s =
    { s with sck := { s.sck with level := levelOf s }, chr := { s.chr with lamps := lampsAt s.now (levelOf s) s } } :=
  judgeHold_level _ s

/-- The crossing into a later minute of the same century, by the terms of Safety (R4 to R6, R8). -/
theorem crossMinute_eq (t n : Nat) (s : State) (hn : n = clockMs { s with now := t } / 60000)
    (h1 : s.sck.minuteDone < n) (h2 : n < 36525 * 1440) :
    crossMinute { s with now := t } = raiseSlot (n % 1440) (n / 1440)
        { s with
          now := t, sck := s.sck.atMinute n
          chr := { s.chr with lamps := lampsAt t (s.sck.atMinute n).level s } } := by
  have hm : minuteNo { s with now := t } = n := hn.symm
  have hw : wrapCentury { s with now := t } = { s with now := t } := by
    simp only [wrapCentury]
    rw [if_pos]
    simp only [centuryMs, Config.centuryDays, Config.dayMs]; omega
  unfold crossMinute
  rw [if_neg (by simp only [hm]; omega)]
  simp only [hw, hm]
  congr 1
  simp only [recomputeLevel_eq, matchCalendar, State.modSck, levelOf_eq, endQuiet, Sck.atMinute, entryInForce, dayNo,
      minuteOfDay, timeOfDay, Config.dayMs, Config.minuteMs]
  obtain ⟨f1, f2⟩ := day_minute_of_ms (clockMs { s with now := t })
  rw [← hn] at f1 f2
  simp only [clockMs] at f1 f2 ⊢
  rw [f1, f2]
  cases matchDay s.sck.calendar (n / 1440) <;> rfl

/-- The frame that the strict rule sends: the oldest of the highest class present (R152). -/
theorem chosen_eq (l r : List TxFrame) (f : TxFrame) (s : State) (hr : s.bus.rotating = false)
    (hq : s.bus.queue = l ++ f :: r)
    (h1 : ∀ g ∈ l, classRank (frameClass g.content) < classRank (frameClass f.content))
    (h2 : ∀ g ∈ r, classRank (frameClass g.content) ≤ classRank (frameClass f.content)) : chosen s = some f := by
  have key : ∀ c, c = frameClass f.content → oldestOf c s.bus.queue = some f := by
    intro c hc
    rw [oldestOf, hq, List.find?_append]
    have : List.find? (fun f => frameClass f.content == c) l = none := by
      simp only [List.find?_eq_none, beq_iff_eq]
      intro g hg he; have := h1 g hg; rw [he, hc] at this; omega
    rw [this]; simp [hc]
  have none' : ∀ c, classRank (frameClass f.content) < classRank c → oldestOf c s.bus.queue = none := by
    intro c hc
    rw [oldestOf, hq]
    simp only [List.find?_eq_none, beq_iff_eq, List.mem_append, List.mem_cons]
    rintro g (hg | rfl | hg) he
    · have := h1 g hg; rw [he] at this; omega
    · rw [he] at hc; omega
    · have := h2 g hg; rw [he] at this; omega
  rw [chosen, hr]
  simp only [Bool.false_eq_true, if_false, firstOf]
  cases hf : frameClass f.content with
  | urgent => rw [key _ hf.symm]
  | showClass => rw [none' .urgent (by rw [hf]; decide), key _ hf.symm]
  | routine => rw [none' .urgent (by rw [hf]; decide), none' .showClass (by rw [hf]; decide), key _ hf.symm]

/-- The lowest rank among frames, with a bound: a lower bound of all, and one of them or the bound. -/
theorem lowestRank_spec (r : Nat) (q : List TxFrame) :
    lowestRank r q ≤ r ∧ (∀ g ∈ q, lowestRank r q ≤ classRank (frameClass g.content))
        ∧ (lowestRank r q = r ∨ ∃ g ∈ q, classRank (frameClass g.content) = lowestRank r q) := by
  unfold lowestRank
  induction q generalizing r with
  | nil => simp
  | cons a q ih =>
    simp only [List.foldl_cons]
    obtain ⟨h1, h2, h3⟩ := ih (min r (classRank (frameClass a.content)))
    refine ⟨by omega, ?_, ?_⟩
    · intro g hg
      rcases List.mem_cons.1 hg with rfl | hg
      · omega
      · exact h2 g hg
    · rcases h3 with h3 | ⟨g, hg, h3⟩
      · rw [h3]
        rcases Nat.le_total r (classRank (frameClass a.content)) with h | h
        · left; omega
        · right; exact ⟨a, by simp, by omega⟩
      · right; exact ⟨g, by simp [hg], h3⟩

/-- A list split at the last entry with a property. -/
theorem split_at_last {α : Type} (p : α → Bool) (q : List α) (v : α) (h : (q.filter p).getLast? = some v) :
    ∃ l r, q = l ++ v :: r ∧ p v = true ∧ ∀ g ∈ r, p g = false := by
  induction q with
  | nil => simp at h
  | cons a q ih =>
    by_cases hq : (q.filter p) = []
    · have hnone : ∀ g ∈ q, p g = false := by
        intro g hg
        by_contra hc
        have : g ∈ q.filter p := by simp [hg]; simpa using hc
        rw [hq] at this; cases this
      by_cases ha : p a = true
      · rw [List.filter_cons, if_pos ha, hq] at h
        simp at h; subst h
        exact ⟨[], q, rfl, ha, hnone⟩
      · rw [List.filter_cons, if_neg ha, hq] at h; simp at h
    · have : (q.filter p).getLast? = some v := by
        rw [List.filter_cons] at h
        split at h
        · rw [List.getLast?_cons] at h
          cases hl : (q.filter p).getLast? with
          | none => simp at hl; exact absurd (by simpa using hl) hq
          | some w => rw [hl] at h; simpa using h
        · exact h
      obtain ⟨l, r, e, h1, h2⟩ := ih this
      exact ⟨a :: l, r, by rw [e]; rfl, h1, h2⟩

/-- A figure after an update of a figure. -/
theorem figRun_modFigRun (f k : Nat) (g : FigRun → FigRun) (s : State) :
    figRun (modFigRun k g s) f = if f = k ∧ f < s.fig.run.length then g (figRun s f) else figRun s f := by
  simp only [figRun, modFigRun, State.modFig, List.getD_eq_getElem?_getD, List.getElem?_set]
  by_cases h : k = f
  · subst h
    by_cases h2 : k < s.fig.run.length
    · simp [h2]
    · simp [h2]
  · have h' : ¬ f = k := fun e => h e.symm
    simp [h, h']

/-- Muting figure by figure. -/
theorem muteFold (now : Nat) (l : List Nat) (hn : l.Nodup) (s : State) (f : Nat) (hs : s.now = now) :
    let u := l.foldl (fun s f => modFigRun f (muteFigure s.now) s) s
    (∃ r, u = { s with fig := { s.fig with run := r } } ∧ r.length = s.fig.run.length) ∧
    figRun u f = if f ∈ l ∧ f < s.fig.run.length then muteFigure now (figRun s f) else figRun s f := by
  induction l generalizing s with
  | nil => exact ⟨⟨s.fig.run, rfl, rfl⟩, by simp⟩
  | cons a l ih =>
    have hn' := List.nodup_cons.1 hn
    obtain ⟨⟨r, h1, h1'⟩, h2⟩ := ih hn'.2 (modFigRun a (muteFigure s.now) s) hs
    simp only [List.foldl_cons]
    have hlen : (modFigRun a (muteFigure s.now) s).fig.run.length = s.fig.run.length := by
      simp [modFigRun, State.modFig]
    refine ⟨⟨r, by rw [h1]; rfl, by rw [h1', hlen]⟩, ?_⟩
    rw [h2, figRun_modFigRun, hlen, hs]
    by_cases ha : f = a
    · subst ha; simp [hn'.1]
    · simp [ha]

/-- Every configured figure muted, every other as it was (R114, R131). -/
theorem muteFigures_run (s : State) (f : Nat) :
    (∃ r, muteFigures s = { s with fig := { s.fig with run := r } } ∧ r.length = s.fig.run.length) ∧
    figRun (muteFigures s) f = if f ∈ figNumbers s ∧ f < s.fig.run.length then muteFigure s.now (figRun s f)
        else figRun s f := by
  exact muteFold s.now (figNumbers s) (by unfold figNumbers; exact List.Nodup.filter _ List.nodup_range) s f rfl

/-- What the withdrawal of a muted station leaves: the moment, the image, the zones, an empty queue, the peers, at
most one WITHDRAWN more in the fault list, and each figure as it was, out of its jam wait, or muted. -/
structure Kept (s u : State) : Prop where
  now : u.now = s.now
  iml : u.iml = s.iml
  zon : u.zon = s.zon
  queue : u.bus.queue = []
  peers : u.bus.peers = s.bus.peers
  dup : u.bus.dup = s.bus.dup
  flt : ∃ l, u.flt.list = (l ++ s.flt.list).take 8 ∧ l.length ≤ 1 ∨ u.flt.list = s.flt.list
  figs : u.fig.figs = s.fig.figs
  len : u.fig.run.length = s.fig.run.length
  run : ∀ f < s.fig.run.length, figRun u f = figRun s f ∨ figRun u f = startJamWait s.now (figRun s f)
    ∨ figRun u f = muteFigure s.now (figRun s f)

/-- A state is kept by itself. -/
theorem kept_refl (s : State) (h : s.bus.queue = []) :
    Kept s s := ⟨rfl, rfl, rfl, h, rfl, rfl, ⟨[], Or.inr rfl⟩, rfl, rfl, fun _ _ => Or.inl rfl⟩

/-- The entry to IDLE keeps it. -/
theorem enterIdle_kept (s : State) (h : s.bus.queue = []) : Kept s (enterIdle s) where
  now := rfl
  iml := rfl
  zon := rfl
  queue := h
  peers := rfl
  dup := rfl
  flt := ⟨[], Or.inr rfl⟩
  figs := rfl
  len := by simp [enterIdle, State.modFig, State.modShe]
  run := by
    intro f hf
    right; left
    simp [figRun, enterIdle, State.modFig, State.modShe, hf]

/-- The removal of frames keeps it. -/
theorem removeFrames_kept (p : Content → Bool) (s : State) (h : s.bus.queue = []) : Kept s (removeFrames p s) where
  now := rfl
  iml := rfl
  zon := rfl
  queue := by simp [removeFrames, State.modBus, h]
  peers := rfl
  dup := rfl
  flt := ⟨[], Or.inr rfl⟩
  figs := rfl
  len := rfl
  run := fun f _ => Or.inl rfl

/-- A muted withdrawal from a running show keeps it. -/
theorem withdrawRunning_kept (r : Reason) (s : State) (h : s.bus.queue = []) (hm : isMuted s = true) :
    Kept s (withdrawRunning r s) := by
  have hms : maySend s = false := by
    simp only [isMuted, Bool.and_eq_true, beq_iff_eq] at hm
    simp [maySend, hm.1, hm.2]
  have e1 : raiseFault .withdrawn (progNo s) (leaveShow s) = recordFault .withdrawn (progNo s) (leaveShow s) := by
    apply raiseFault_quiet
    simp only [reportsFault]
    rw [show maySend (leaveShow s) = maySend s from rfl, hms]; rfl
  have e2 : sendWithdraw r (recordFault .withdrawn (progNo s) (leaveShow s)) = recordFault .withdrawn (progNo s)
      (leaveShow s) := by
    rw [sendWithdraw, if_pos]; exact hm
  unfold withdrawRunning
  rw [e1]
  simp only [e2]
  have e3 : figsLeave (bellsWithdraw (setEngine .settling (recordFault .withdrawn (progNo s) (leaveShow s)))) =
      muteFigures (bellsWithdraw (setEngine .settling (recordFault .withdrawn (progNo s) (leaveShow s)))) := by
    rw [figsLeave, if_pos]; exact hm
  rw [e3]
  clear e3 e2 e1
  have hX : ∃ be sh fl, bellsWithdraw (setEngine .settling (recordFault .withdrawn (progNo s) (leaveShow s))) =
      { s with bel := be, she := sh, flt := fl }
          ∧ fl.list = (([⟨.withdrawn, progNo s, dayNo s, minuteOfDay s⟩] : List FaultRec) ++ s.flt.list).take 8 :=
              ⟨_, _, _, rfl, rfl⟩
  obtain ⟨be, sh, fl, hX, hfl⟩ := hX
  rw [hX]
  have hY : ∀ V : State, ∃ gt cs ch, lampsOut (clearGate (cuesWithdraw V)) =
      { V with gtu := gt, csq := cs, chr := ch, bus := (removeFrames isGateFrame V).bus } :=
          fun V => ⟨_, _, _, rfl⟩
  obtain ⟨gt, cs, ch, hY⟩ := hY (muteFigures { s with bel := be, she := sh, flt := fl })
  rw [hY]
  have hM := fun f => muteFigures_run ({ s with bel := be, she := sh, flt := fl }) f
  obtain ⟨⟨rr, hr, hrl⟩, _⟩ := hM 0
  refine ⟨?_, ?_, ?_, ?_, ?_, ?_, ?_, ?_, ?_, ?_⟩
  · rw [hr]
  · rw [hr]
  · rw [hr]
  · rw [hr]; simp [removeFrames, State.modBus, h]
  · rw [hr]; rfl
  · rw [hr]; rfl
  · rw [hr]; exact ⟨_, Or.inl ⟨hfl, by simp⟩⟩
  · rw [hr]
  · rw [hr]; exact hrl
  · intro f hf
    obtain ⟨_, hq⟩ := hM f
    have : ∀ (g : Gtu) (cs : Csq) (ch : Chr) (b : Bus)
        (V : State), figRun { V with gtu := g, csq := cs, chr := ch, bus := b } f = figRun V f :=
            fun _ _ _ _ _ => rfl
    rw [this, hq]
    split
    · right; right; rfl
    · left; rfl

/-- A muted withdrawal from SETTLING keeps it. -/
theorem withdrawSettling_kept (r : Reason) (s : State) (h : s.bus.queue = []) (hm : isMuted s = true) :
    Kept s (withdrawSettling r s) := by
  unfold withdrawSettling
  rw [sendWithdraw, if_pos (show isMuted (leaveShow s) = true from hm)]
  exact ⟨rfl, rfl, rfl, h, rfl, rfl, ⟨[], Or.inr rfl⟩, rfl, rfl, fun f _ => Or.inl rfl⟩

/-- The engine of a muted station stops (R172). -/
theorem engineStops_kept (s : State) (h : s.bus.queue = []) (hm : isMuted s = true) : Kept s (engineStops s) := by
  unfold engineStops
  split
  · rename_i x _
    have h1 := removeFrames_kept (isTalkOf x.1) s h
    have h2 := enterIdle_kept (removeFrames (isTalkOf x.1) s) h1.queue
    exact ⟨h2.now, h2.iml, h2.zon, h2.queue, h2.peers, h2.dup, h2.flt, h2.figs, h2.len, h2.run⟩
  · unfold withdrawShow
    split
    · exact withdrawRunning_kept _ _ h hm
    · exact withdrawRunning_kept _ _ h hm
    · exact withdrawRunning_kept _ _ h hm
    · split
      · exact withdrawSettling_kept _ _ h hm
      · exact kept_refl s h
    all_goals exact kept_refl s h

/-- Membership in a set with a member more. -/
theorem mem_insert {w : Nat} (s : BitVec w) (i k : Nat) :
    Bits.mem (Bits.insert s i) k = (Bits.mem s k || (decide (k = i) && decide (k < w))) := by
  simp only [Bits.mem, Bits.insert, BitVec.getLsbD_or, BitVec.getLsbD_twoPow]
  by_cases h : k = i
  · subst h; simp
  · have h' : ¬ i = k := fun e => h e.symm
    simp [h, h']

/-- Membership in the set of a list. -/
theorem mem_ofList {w : Nat} (l : List Nat) (k : Nat) :
    Bits.mem (Bits.ofList w l) k = (l.contains k && decide (k < w)) := by
  induction l with
  | nil => simp [Bits.ofList, Bits.mem]
  | cons a l ih =>
    rw [Bits.ofList, mem_insert, ih, List.contains_cons]
    by_cases h : k = a
    · subst h; simp
    · have hb : (k == a) = false := by simpa using h
      simp [h, hb]

/-- The list of a set. -/
theorem mem_toList {w : Nat} (s : BitVec w) (k : Nat) : k ∈ Bits.toList s ↔ k < w ∧ Bits.mem s k = true := by
  simp [Bits.toList]

/-- The list of a set is ascending. -/
theorem toList_sorted {w : Nat} (c : BitVec w) : (Bits.toList c).Pairwise (· ≤ ·) := by
  apply List.Pairwise.filter
  exact (List.pairwise_lt_range).imp (fun h => le_of_lt h)

/-- What stands in a set and in every set of a list stands in their intersection (R28). -/
theorem foldAnd (l : List (Nat × Set32)) : ∀ (m : Set32) (q : Nat),
    Bits.mem (l.foldl (fun m a => m &&& a.2) m) q = true ↔
        Bits.mem m q = true ∧ ∀ a ∈ l, Bits.mem a.2 q = true := by
  induction l with
  | nil => intro m q; simp
  | cons a l ih =>
    intro m q
    simp only [List.foldl_cons, ih, Bits.mem, BitVec.getLsbD_and, Bool.and_eq_true, List.forall_mem_cons,
      and_assoc]

/-- The release of a gate, by the terms of Safety (R45). -/
theorem releaseGate_eq (g : GateRec) (u : State) : releaseGate g u = { (match g.goFrame with
            | some id => removeFrame id u
            | none => u) with gtu := { u.gtu with gate := some (g.released u.now) } } := by
  simp only [releaseGate, GateRec.released, nextGate, State.modGtu]
  cases g.goFrame with
  | none => rfl
  | some id => exact congrArg (fun x : Gtu => ({ removeFrame id u with gtu := { x with
      gate := some (g.released u.now) } } : State)) (removeFrame_gtu u id)

/-- A gate in READY whose participants changed: released, or its deadline worked again (R45, R47). -/
theorem recheck_ready (u : State) (g : GateRec) (hg : u.gtu.gate = some g) (hp : g.phase = .ready) :
    checkRelease (recomputeGate u) = if Bits.subset (participants u) g.readySet then
        { (match g.goFrame with
            | some id => removeFrame id u
            | none => u) with gtu := { u.gtu with gate := some (g.released u.now) } }
      else { u with gtu := { u.gtu with gate := some { g with
          timer := g.timer.map fun _ => gateDeadline u g (participants u) } } } := by
  rcases g with ⟨num, ph, rs, li, rm, tm, st, rf, gf, rl⟩
  subst hp
  have hrec : recomputeGate u = { u with gtu := { u.gtu with
      gate := some ⟨num, .ready, rs, li, rm,
        tm.map fun _ => gateDeadline u ⟨num, .ready, rs, li, rm, tm, st, rf, gf, rl⟩ (participants u), st, rf, gf,
        rl⟩ } } := by
    rcases u with ⟨now, r, iml, sck, she, ⟨gt, stray, lim⟩, csq, bel, fig, zon, chr, bus, flt, pend⟩
    cases hg
    cases tm with
    | none => simp [recomputeGate]
    | some x => simp [recomputeGate, modGate, State.modGtu]
  rw [hrec]
  have hpu : ∀ x, participants { u with gtu := x } = participants u := fun _ => rfl
  simp only [checkRelease, true_and, allReady, hpu]
  by_cases hs : Bits.subset (participants u) rs = true
  · rw [if_pos hs, if_pos hs]
    rw [releaseGate_eq]
    cases gf with
    | none => rfl
    | some id =>
      have hit : ∀ x, inTransmission { u with gtu := x } id = inTransmission u id := fun _ => rfl
      simp only [removeFrame, hit]
      split <;> rfl
  · rw [if_neg hs, if_neg hs]

/-- A gate in another phase stays as it is. -/
theorem recheck_other (u : State) (h : ∀ g, u.gtu.gate = some g → g.phase ≠ .ready) :
    checkRelease (recomputeGate u) = u := by
  have : recomputeGate u = u := by
    unfold recomputeGate
    cases hg : u.gtu.gate with
    | none => rfl
    | some g => simp [h g hg]
  rw [this]
  unfold checkRelease
  cases hg : u.gtu.gate with
  | none => rfl
  | some g => simp [h g hg]

/-- The entry to IDLE, by the terms of Safety. -/
theorem enterIdle_eq (t : Nat) (s : State) (h : s.now = t) : enterIdle s = idleAt t s := by
  subst h; rfl

/-- The settle timer runs out (R50). -/
theorem settleExpires_eq (t : Nat) (s : State) (g : GateRec) (hg : s.gtu.gate = some g) (hn : s.now = t) :
    settleExpires s = playWaiting 9 { s with
      now := t, she := { s.she with engine := .running }
      gtu := { s.gtu with gate := some { g with phase := .ahead, settle := none } }
      csq := { s.csq with
        running := true, anchorReal := t, anchorTau := s.csq.tau, gateAfter := none
        seg := { s.csq.seg with tau0 := s.csq.tau, tick0 := s.csq.gateTick } } } := by
  subst hn
  simp only [settleExpires, resumeClock]
  rw [modGate_some (s := setEngine .running s) hg]
  rfl

/-- The best rank among stations and programmes (R28). -/
theorem bestRank_spec (s : State) : ∀ (l : List Nat) (b : Nat),
    (let q := l.foldl (fun best p => if rankOf s best < rankOf s p then p else best) b
     (q = b ∨ q ∈ l) ∧ (∀ r ∈ b :: l, rankOf s r ≤ rankOf s q)) := by
  intro l
  induction l with
  | nil => intro b; simp
  | cons a l ih =>
    intro b
    simp only [List.foldl_cons]
    by_cases h : rankOf s b < rankOf s a
    · rw [if_pos h]
      obtain ⟨h1, h2⟩ := ih a
      refine ⟨?_, ?_⟩
      · rcases h1 with h1 | h1
        · right; rw [h1]; exact List.mem_cons_self
        · right; exact List.mem_cons_of_mem _ h1
      · intro r hr
        simp only [List.mem_cons] at hr
        rcases hr with rfl | rfl | hr
        · exact le_trans (le_of_lt h) (h2 a List.mem_cons_self)
        · exact h2 _ List.mem_cons_self
        · exact h2 r (List.mem_cons_of_mem _ hr)
    · rw [if_neg h]
      obtain ⟨h1, h2⟩ := ih b
      refine ⟨?_, ?_⟩
      · rcases h1 with h1 | h1
        · left; exact h1
        · right; exact List.mem_cons_of_mem _ h1
      · intro r hr
        simp only [List.mem_cons] at hr
        rcases hr with rfl | rfl | hr
        · exact h2 _ List.mem_cons_self
        · exact le_trans (not_lt.1 h) (h2 b List.mem_cons_self)
        · exact h2 r (List.mem_cons_of_mem _ hr)

/-- The best rank is the lowest. -/
theorem bestRank_low (s : State) : ∀ (l : List Nat) (b : Nat), (b :: l).Pairwise (· ≤ ·) →
    (let q := l.foldl (fun best p => if rankOf s best < rankOf s p then p else best) b
     ∀ r ∈ b :: l, rankOf s r = rankOf s q → q ≤ r) := by
  intro l
  induction l with
  | nil => intro b; simp
  | cons a l ih =>
    intro b hp
    simp only [List.foldl_cons]
    obtain ⟨hb, hal⟩ := List.pairwise_cons.1 hp
    by_cases h : rankOf s b < rankOf s a
    · rw [if_pos h]
      intro r hr he
      simp only [List.mem_cons] at hr
      have hs := (bestRank_spec s l a).2 a List.mem_cons_self
      rcases hr with rfl | rfl | hr
      · exact absurd he (by omega)
      · exact ih _ hal _ List.mem_cons_self he
      · exact ih _ hal r (List.mem_cons_of_mem _ hr) he
    · rw [if_neg h]
      have hbl : (b :: l).Pairwise (· ≤ ·) := by
        apply List.pairwise_cons.2
        exact ⟨fun x hx => hb x (List.mem_cons_of_mem _ hx), (List.pairwise_cons.1 hal).2⟩
      intro r hr he
      simp only [List.mem_cons] at hr
      rcases hr with rfl | rfl | hr
      · exact ih _ hbl _ List.mem_cons_self he
      · have hb2 := (bestRank_spec s l b).2 b List.mem_cons_self
        have hh : rankOf s b = rankOf s (l.foldl (fun best p => if rankOf s best < rankOf s p then p
            else best) b) := by
          have := not_lt.1 h; omega
        exact le_trans (ih b hbl b List.mem_cons_self hh) (hb _ List.mem_cons_self)
      · exact ih _ hbl r (List.mem_cons_of_mem _ hr) he

/-- A live zone command whose effect leaves the Zone Unit as it was, at rest. -/
theorem zoneEvent_of {t : Nat} {s : State} (hl : Live t s) (hz : ZonesAtRest s) (f : State → State) {v : State}
    (hv : f { s with now := t } = v) (hvz : v.zon = s.zon) : zoneEvent t f s = .next v := by
  have := zoneEvent_rest hl f (by rw [hv, ZonesAtRest, hvz]; exact hz)
  rw [this, hv]

/-- A read with a byte other than FFh is an answer (R59). -/
theorem answers_of_mem {d : List Byte} (h : ∃ b ∈ d, b ≠ 0xFF) : noAnswer d = false := by
  by_contra hc
  have := noAnswer_iff.1 (by simpa using hc)
  obtain ⟨b, hb, hn⟩ := h
  exact hn (this.2 b hb)

/-- A strike fired leaves the Cue Sequencer. -/
theorem fireStrike_csq (e : Strike) (s : State) : (fireStrike e s).csq = s.csq := by
  unfold fireStrike
  split
  · rfl
  · split
    · simp; rfl
    · split
      · simp; rfl
      · rfl

/-- So does the arbiter. -/
theorem arbitrate_csq : ∀ (n : Nat) (s : State), (arbitrate n s).csq = s.csq := by
  intro n
  induction n with
  | zero => intro s; rfl
  | succ n ih =>
    intro s
    rw [arbitrate]
    split
    · split
      · rw [ih, fireStrike_csq]
      · rfl
    · rfl

/-- So does a strike taken in. -/
theorem takeStrike_csq (b v : Nat) (o : Int) (s : State) : (takeStrike b v o s).csq = s.csq := by
  unfold takeStrike
  split
  · rfl
  · simp only []
    split
    · rfl
    · split
      · simp
      · split
        · simp
        · split
          · rw [runArbiter, arbitrate_csq]; rfl
          · rfl

/-- A strike inserted: the same entries and one more. -/
theorem insertStrike_perm (e : Strike) : ∀ l, (insertStrike e l).Perm (e :: l) := by
  intro l
  induction l with
  | nil => exact List.Perm.refl _
  | cons x l ih =>
    rw [insertStrike]
    split
    · exact List.Perm.refl _
    · exact ((List.Perm.cons x ih).trans (List.Perm.swap e x l))

/-- The list order of strikes, against one with an older insertion number. -/
theorem strikeBefore_total {e x : Strike} (h : strikeBefore e x = false) (hi : x.ins < e.ins) :
    strikeBefore x e = true := by
  simp only [strikeBefore, decide_eq_false_iff_not, decide_eq_true_eq] at *
  omega

/-- The list order of strikes is transitive. -/
theorem strikeBefore_trans {a b c : Strike} (h1 : strikeBefore a b = true) (h2 : strikeBefore b c = true) :
    strikeBefore a c = true := by
  simp only [strikeBefore, decide_eq_true_eq] at *
  omega

/-- A strike inserted in a sorted list leaves it sorted (R79). -/
theorem insertStrike_sorted (e : Strike) : ∀ l, (∀ x ∈ l, x.ins < e.ins) →
    l.Pairwise (fun x y => strikeBefore x y = true) →
        (insertStrike e l).Pairwise (fun x y => strikeBefore x y = true) := by
  intro l
  induction l with
  | nil => intro _ _; simp [insertStrike]
  | cons x l ih =>
    intro hi hp
    obtain ⟨hx, hp'⟩ := List.pairwise_cons.1 hp
    rw [insertStrike]
    split
    · rename_i h
      apply List.pairwise_cons.2
      refine ⟨?_, hp⟩
      intro y hy
      rcases List.mem_cons.1 hy with rfl | hy
      · exact h
      · exact strikeBefore_trans h (hx y hy)
    · rename_i h
      apply List.pairwise_cons.2
      refine ⟨?_, ih (fun y hy => hi y (List.mem_cons_of_mem _ hy)) hp'⟩
      intro y hy
      have := (insertStrike_perm e l).mem_iff.1 hy
      rcases List.mem_cons.1 this with rfl | hy'
      · exact strikeBefore_total (by simpa using h) (hi x List.mem_cons_self)
      · exact hx y hy'

/-- With no strike waiting the arbiter does nothing. -/
theorem runArbiter_nil (s : State) (h : s.bel.strikes = []) : runArbiter s = s := by
  simp [runArbiter, arbitrate, h]

/-- Bells cooled one by one (R86). -/
theorem foldl_coolBell (l : List Nat) : ∀ (s : State), l.Nodup →
    ∃ run, run.length = s.bel.run.length ∧ (∀ b, run.getD b BellRun.rest = match bellRec s b with
        | some c => if b ∈ l ∧ b < run.length then { bellRun s b with heat := (bellRun s b).heat - c.cool }
            else bellRun s b
        | none => bellRun s b) ∧ l.foldl coolBell s = { s with bel := { s.bel with run := run } } := by
  induction l with
  | nil =>
    intro s _
    refine ⟨s.bel.run, rfl, ?_, rfl⟩
    intro b
    cases bellRec s b <;> simp [bellRun]
  | cons a l ih =>
    intro s hn
    obtain ⟨hna, hn'⟩ := List.nodup_cons.1 hn
    obtain ⟨run, h1, h2, h3⟩ := ih (coolBell s a) hn'
    have hrec : ∀ b, bellRec (coolBell s a) b = bellRec s b := by
      intro b; unfold coolBell; split <;> rfl
    have hlen : (coolBell s a).bel.run.length = s.bel.run.length := by
      unfold coolBell; split
      · rfl
      · simp [modBellRun, State.modBel]
    have hrun : ∀ b, bellRun (coolBell s a) b = match bellRec s b with
        | some c => if b = a ∧ b < s.bel.run.length then { bellRun s b with heat := (bellRun s b).heat - c.cool }
            else bellRun s b
        | none => bellRun s b := by
      intro b
      unfold coolBell
      cases ha : bellRec s a with
      | none =>
        by_cases hb : b = a
        · subst hb; simp [ha]
        · simp [hb]; cases bellRec s b <;> rfl
      | some c =>
        simp only [bellRun, modBellRun, State.modBel, List.getD_eq_getElem?_getD, List.getElem?_set]
        by_cases hb : b = a
        · subst hb
          simp only [ha, if_true, true_and]
          by_cases hl : b < s.bel.run.length
          · simp [hl]
          · simp [hl]
        · simp only [show ¬ a = b from fun h => hb h.symm, hb, if_false, false_and]
          cases bellRec s b <;> rfl
    refine ⟨run, by rw [h1, hlen], ?_, ?_⟩
    · intro b
      rw [h2 b, hrec, hrun]
      cases hbr : bellRec s b with
      | none => rfl
      | some c =>
        simp only [List.mem_cons]
        rw [h1, hlen]
        by_cases hb : b = a
        · subst hb
          simp [hna]
        · simp [hb]
    · rw [List.foldl_cons, h3]
      unfold coolBell
      split <;> rfl

/-- An entry written with its own value. -/
theorem set_getD_self {α : Type} (l : List α) (n : Nat) (d : α) : l.set n (l.getD n d) = l := by
  by_cases h : n < l.length
  · rw [List.getD_eq_getElem?_getD, List.getElem?_eq_getElem h]; simp
  · exact List.set_eq_of_length_le (by omega)

/-- A sensor with a running timer is in the table. -/
theorem sensor_timer_range {s : State} {n e : Nat} (h : (sensRun s n).timer = some e) :
    n < s.chr.sensors.length := by
  by_contra hc
  have : s.chr.sensors[n]? = none := List.getElem?_eq_none_iff.2 (by omega)
  simp [sensRun, List.getD_eq_getElem?_getD, this] at h

/-- The one figure with a property. -/
theorem filter_single (p : Nat → Bool) (f : Nat) (hf : f ≤ 6) (h : ∀ g ≤ 6, p g = true ↔ g = f) :
    (List.range 7).filter p = [f] := by
  have : (List.range 7).filter p = (List.range 7).filter (fun g => g == f) := by
    apply List.filter_congr
    intro g hg
    have := h g (by simpa using Nat.lt_succ_iff.1 (List.mem_range.1 hg))
    rw [Bool.eq_iff_iff, this]; simp
  rw [this]
  interval_cases f <;> rfl

/-- The one configured figure with a property of its record. -/
theorem figsWith_single (s : State) (p : FigRec → Bool) (f : Nat) (c : FigRec) (hf : f ≤ 6)
    (hc : figRec s f = some c) (hp : p c = true)
        (ho : ∀ g ≤ 6, ∀ k, figRec s g = some k → p k = true → g = f) : figsWith s p = [f] := by
  have : figsWith s p = (List.range 7).filter fun g => (figRec s g).any p := by
    simp only [figsWith, figNumbers, List.filter_filter]
    apply List.filter_congr
    intro g _
    cases figRec s g <;> simp
  rw [this]
  apply filter_single _ _ hf
  intro g hg
  constructor
  · intro h
    cases hk : figRec s g with
    | none => simp [hk] at h
    | some k => simp [hk] at h; exact ho g hg k hk h
  · rintro rfl; simp [hc, hp]

/-- Two updates of one figure. -/
theorem modFigRun_mod (f : Nat) (g h : FigRun → FigRun) (s : State) :
    modFigRun f g (modFigRun f h s) = modFigRun f (fun r => g (h r)) s := by
  simp only [modFigRun, State.modFig, List.set_set]
  by_cases hf : f < s.fig.run.length
  · simp [List.getD_eq_getElem?_getD, hf]
  · have : s.fig.run[f]? = none := List.getElem?_eq_none_iff.2 (by omega)
    simp only [List.set_eq_of_length_le (show s.fig.run.length ≤ f by omega)]

/-- An update of a figure rests on its value at the figure. -/
theorem modFigRun_congr {f : Nat} {g h : FigRun → FigRun} {s : State} (hgh : g (figRun s f) = h (figRun s f)) :
    modFigRun f g s = modFigRun f h s := by
  simp only [modFigRun, State.modFig]
  rw [show s.fig.run.getD f FigRun.reset = figRun s f from rfl, hgh]

/-- An update of a figure as a record. -/
theorem modFigRun_put (f : Nat) (g : FigRun → FigRun) (s : State) :
    modFigRun f g s = { s with fig := { s.fig with run := s.fig.run.set f (g (figRun s f)) } } := rfl

/-- A figure of the table after its update. -/
theorem figRun_mod {f : Nat} {s : State} (hf : f < s.fig.run.length) (g : FigRun → FigRun) :
    figRun (modFigRun f g s) f = g (figRun s f) := by
  simp [figRun, modFigRun, State.modFig, List.getD_eq_getElem?_getD, hf]

/-- A figure out of its reset values is in the table. -/
theorem fig_range {s : State} {f : Nat} (h : figRun s f ≠ FigRun.reset) : f < s.fig.run.length := by
  by_contra hc
  have : s.fig.run[f]? = none := List.getElem?_eq_none_iff.2 (by omega)
  exact h (by simp [figRun, List.getD_eq_getElem?_getD, this])

/-- A fault raised and the Figure Unit changed, in either order. -/
theorem raiseFault_setFig (c : FaultCode) (d : Nat) (s : State) (x : Fig) :
    raiseFault c d { s with fig := x } = { raiseFault c d s with fig := x } := by
  simp only [raiseFault]
  rw [show reportsFault { s with fig := x } c d = reportsFault s c d from rfl]
  split
  · rw [show (recordFault c d { s with fig := x }).bus.queue.length
        = (recordFault c d s).bus.queue.length from rfl]
    split <;> rfl
  · rfl

/-- One waiting request, all its zones FREE: it is claimed in one CLAIM (R120, R121). -/
theorem tryList_one (s : State) (r : ZoneReq) (hreq : s.zon.reqs = [r]) (hw : r.state = .waiting)
    (hn : r.zones ≠ []) (hfree : ∀ z ∈ r.zones, zoneAt s z = .free) (hroom : s.bus.queue.length < 8) :
    tryList s = { s with
      zon := { s.zon with
        trialDue := false
        view := s.zon.view.mapIdx fun z x =>
            if z ∈ r.zones then .pending (ownNo s) s.bus.nextId none (some r.figure) else x
        reqs := [{ r with state := .claiming s.bus.nextId }] }
      bus := s.bus.queued (.claim false (Bits.ofList 64 r.zones)) } := by
  have hf : r.zones.filter (fun z => zoneAt s z == .free) = r.zones := by
    apply List.filter_eq_self.2
    intro z hz; simp [hfree z hz]
  have hw2 : requestWaits s [] r = false := by
    simp only [requestWaits, List.any_nil, Bool.or_false, List.any_eq_false]
    intro z hz; simp [zoneBlocks, hfree z hz]
  have hall : r.zones.all (heldFor s r.figure) = false := by
    cases hz : r.zones with
    | nil => exact absurd hz hn
    | cons a l =>
      have := hfree a (by rw [hz]; simp)
      simp [heldFor, this]
  simp only [tryList, hreq, List.map_cons, List.map_nil, List.foldl_cons, List.foldl_nil]
  have hro : requestOf (s.modZon fun z => { z with trialDue := false }) r.figure = some r := by
    simp [requestOf, hreq]
  simp only [tryRequest, hro]
  have htw : (s.modZon fun z => { z with trialDue := false }).zon.reqs.takeWhile (fun q => q.figure != r.figure) =
      [] := by
    simp [hreq]
  rw [htw, if_neg]
  · rw [if_neg]
    · simp only [claimZones]
      rw [queueFrame_room _ _ (by exact hroom)]
      have hz1 : ∀ z, zoneAt (s.modZon fun z => { z with trialDue := false }) z = zoneAt s z := fun _ => rfl
      simp only [hz1, hf]
      simp only [mapView, State.modZon, hreq, Bus.queued]
      simp
      rfl
    · have : (r.zones.all (heldFor (s.modZon fun z => { z with trialDue := false }) r.figure)) =
          r.zones.all (heldFor s r.figure) := rfl
      rw [this, hall]; simp
  · rintro (a | a)
    · exact a hw
    · have : requestWaits (s.modZon fun z => { z with trialDue := false }) [] r = requestWaits s [] r := rfl
      rw [this, hw2] at a; cases a

/-- A figure with a jam-homing wait is in the table. -/
theorem jamWait_range {s : State} {f e : Nat} (h : (figRun s f).jamWait = .until e) : f < s.fig.run.length :=
  fig_range (by intro hc; rw [hc] at h; cases h)

/-- Homing begins at a JAMMED figure with its motor off (R112, R113). -/
theorem beginHoming_jammed {f : Nat} {c : FigRec} {s : State} (hc : figRec s f = some c)
    (hj : (figRun s f).state = .jammed) (hd : (figRun s f).duty = 0) :
    beginHoming f s = requestRun false f c.homingZones { s with fig :=
        { s.fig with run := s.fig.run.set f { figRun s f with
        state := .homing, jamWait := .none, hold := none, duty := 0, jam := none
        run := some ⟨.homing, [(c.park, c.creep)], 1, 100, c.homingZones.map fun z => (z, 0), false, .claim, .seek,
            .off, true⟩ } } } := by
  simp only [beginHoming, hc, setDuty, modFigRun_mod]
  rw [modFigRun_put]
  simp [FigRun.withDuty, hd, hj, homingSet]

/-- An entry of the view. -/
theorem zoneAt_getElem (s : State) (z : Nat) (h : z < s.zon.view.length) : s.zon.view[z] = zoneAt s z := by
  simp [zoneAt, List.getD_eq_getElem?_getD, h]

/-- Two workings of the view that agree at every entry. -/
theorem view_mapIdx_congr {s : State} {f g : Nat → ZoneEntry → ZoneEntry}
    (h : ∀ z, f z (zoneAt s z) = g z (zoneAt s z)) : s.zon.view.mapIdx f = s.zon.view.mapIdx g := by
  apply List.ext_getElem
  · simp
  · intro i h1 h2
    simp only [List.length_mapIdx] at h1
    simp only [List.getElem_mapIdx, zoneAt_getElem s i h1, h]

/-- A working of the view that changes no entry. -/
theorem view_mapIdx_id {s : State} {f : Nat → ZoneEntry → ZoneEntry} (h : ∀ z, f z (zoneAt s z) = zoneAt s z) :
    s.zon.view.mapIdx f = s.zon.view := by
  apply List.ext_getElem
  · simp
  · intro i h1 h2
    simp only [List.length_mapIdx] at h1
    simp only [List.getElem_mapIdx, zoneAt_getElem s i h1, h]

/-- The source of a good frame heard is not the own number. -/
theorem hears_not_own {t : Nat} {src : Byte} {s : State} (hh : Hears t src s) (h1 : 1 ≤ src.toNat) :
    src.toNat ≠ ownNo s := by
  intro he'
  cases hn : s.iml.number with
  | none => simp [ownNo, hn] at he'; simp [he'] at h1
  | some n => simp [ownNo, hn] at he'; exact hh.2.2.2.2 (by rw [hn, he'])

/-- With no own claim lost nothing changes. -/
theorem loseOwnClaims_nil (h : State) : loseOwnClaims [] h = h := by
      simp only [loseOwnClaims, List.foldl_nil, requestsToHead, State.modZon]
      have e1 : (h.zon.reqs.filter fun r => match r.state with
        | .waiting => false
        | .claiming frame => ([] : List Nat).contains frame) = [] := by
        rw [List.filter_eq_nil_iff]
        intro r _
        cases r.state <;> simp
      have e2 : (h.zon.reqs.filter fun r => !(match r.state with
        | .waiting => false
        | .claiming frame => ([] : List Nat).contains frame)) = h.zon.reqs := by
        rw [List.filter_eq_self]
        intro r _
        cases r.state <;> simp
      exact congrArg (fun x => ({ h with zon := { h.zon with reqs := x } } : State)) (show _ = h.zon.reqs from by
        refine (congrArg₂ (fun a b => List.map _ a ++ b) e1 e2).trans ?_
        rfl)

/-- With no group voided nothing changes. -/
theorem voidGroups_nil (h : State) : voidGroups [] h = h := by
      simp only [voidGroups, mapView, State.modZon]
      rw [view_mapIdx_id (s := h)]
      intro z
      cases groupOf (zoneAt h z) <;> simp

/-- Due strikes suppressed: removed and counted (R80). -/
theorem suppressDue_eq (s : State) : suppressDue s = { s with
      bel := { s.bel with strikes := s.bel.strikes.filter fun e => decide ((s.now : Int) < e.fire) }
      flt := { s.flt with
        suppressed := min 255 (s.flt.suppressed
          + (s.bel.strikes.filter fun e => decide (e.fire ≤ (s.now : Int))).length) } } := by
  have h : (fun e : Strike => !strikeDue s e) = fun e => decide ((s.now : Int) < e.fire) := by
    funext e; rw [Bool.eq_iff_iff]; simp [strikeDue]
  simp only [suppressDue, h]
  rfl

/-- A fault raised leaves the suppressed count. -/
theorem raiseFault_suppressed (c : FaultCode) (d : Nat) (s : State) :
    (raiseFault c d s).flt.suppressed = s.flt.suppressed := by
  simp only [raiseFault]
  split
  · split <;> rfl
  · rfl

/-- The Bell Unit at the entry to CUT with no hammer pulsing (R87). -/
theorem bellsEnterCut_eq (s : State) (h : ∀ b, ∀ e, (bellRun s b).hammer ≠ .pulsing e) : bellsEnterCut s = { s with
      bel := { s.bel with
        strikes := s.bel.strikes.filter fun e => decide ((s.now : Int) < e.fire)
        run := s.bel.run.map fun r => { r with damper := .down } }
      flt := { s.flt with
        suppressed := min 255 (s.flt.suppressed
          + (s.bel.strikes.filter fun e => decide (e.fire ≤ (s.now : Int))).length) } } := by
  have hf : ∀ l : List Nat, l.foldl cutShort s = s := by
    intro l
    induction l with
    | nil => rfl
    | cons b l ih =>
      rw [List.foldl_cons]
      have : cutShort s b = s := by
        rw [cutShort, if_neg]
        have := h b
        cases hh : (bellRun s b).hammer <;> simp_all [isPulsing]
      rw [this, ih]
  rw [bellsEnterCut, hf, suppressDue_eq]
  rfl

/-- While the reset pin is low a command has no effect (R16). -/
theorem event_reset {s : State} (h : s.inReset = true) (t : Nat) (f : State → State) :
    event t f s = .next { s with now := max s.now t } := by simp [event, h, State.at]

/-- Nor has a zone command. -/
theorem zoneEvent_reset {s : State} (h : s.inReset = true) (t : Nat) (f : State → State) :
    zoneEvent t f s = .next { s with now := max s.now t } := event_reset h _ _

end Sys2Proof.Machine
end

