-- ==== Sys2Proof/Laws/Shows.lean ====
section
/-! SUPPORT. What the operations of a running show do, said once: steps of the clock over slot moments, withdrawal,
the line's attempts, cues handed over, zones released. -/

namespace Sys2Proof.Machine

/-! ## Slot moments and steps of the clock (R12, R13) -/

/-- One more number counted. -/
theorem count_range (p : Nat → Bool) (n : Nat) : ((List.range (n+1)).filter p).length =
    ((List.range n).filter p).length + (if p n then 1 else 0) := by
  rw [List.range_succ, List.filter_append, List.length_append]
  cases h : p n <;> simp [h]

/-- `momentsUpTo` counts the listed minutes up to a moment, day by day. -/
theorem momentsUpTo_eq (tab : List SlotEntry) (ms : Nat) :
    momentsUpTo tab ms = ((List.range (ms / 60000 + 1)).filter fun n => listed tab (n % 1440)).length := by
  have key : ∀ d r, r ≤ 1440 → ((List.range (1440 * d + r)).filter fun n => listed tab (n % 1440)).length
      = d * (listedSlots tab).length + ((List.range r).filter (listed tab)).length := by
    intro d
    induction d with
    | zero =>
      intro r hr
      simp only [Nat.mul_zero, Nat.zero_add, Nat.zero_mul]
      congr 1
      apply List.filter_congr
      intro x hx
      have := List.mem_range.1 hx
      rw [Nat.mod_eq_of_lt (by omega)]
    | succ d ih =>
      intro r
      induction r with
      | zero =>
        intro _
        have := ih 1440 (le_refl _)
        rw [show 1440 * (d + 1) + 0 = 1440 * d + 1440 by ring, this]
        simp only [listedSlots, List.range_zero, List.filter_nil, List.length_nil]
        ring
      | succ r ihr =>
        intro hr
        rw [show 1440 * (d + 1) + (r + 1) = (1440 * (d+1) + r) + 1 by ring, count_range, ihr (by omega), count_range]
        have : (1440 * (d + 1) + r) % 1440 = r := by omega
        rw [this]; ring
  have h := key (ms / 86400000) (ms % 86400000 / 60000 + 1) (by omega)
  rw [show ms / 60000 + 1 = 1440 * (ms / 86400000) + (ms % 86400000 / 60000 + 1) by omega, h]
  simp only [momentsUpTo, Config.dayMs, Config.minuteMs]
  refine congrArg (ms / 86400000 * (listedSlots tab).length + ·) ?_
  have : ∀ k, k ≤ 1440 → ((List.range k).filter (listed tab)).length =
      ((listedSlots tab).filter fun id => decide (id < k)).length := by
    intro k hk
    simp only [listedSlots, List.filter_filter]
    have : (List.range 1440).filter (fun a => (decide (a < k) && listed tab a)) =
        (List.range k).filter (listed tab) := by
      have gen : ∀ M, k ≤ M → (List.range M).filter (fun a => (decide (a < k) && listed tab a)) =
          (List.range k).filter (listed tab) := by
       intro M hM
       obtain ⟨m, rfl⟩ : ∃ m, M = k + m := ⟨M - k, by omega⟩
       rw [List.range_add, List.filter_append]
       have h2 : ((List.range m).map (k + ·)).filter (fun a => (decide (a < k) && listed tab a)) = [] := by
        rw [List.filter_eq_nil_iff]
        intro a ha
        simp only [List.mem_map] at ha
        obtain ⟨b, _, rfl⟩ := ha
        simp
       rw [h2, List.append_nil]
       apply List.filter_congr
       intro a ha
       simp [List.mem_range.1 ha]
      exact gen 1440 hk
    rw [this]
  rw [this _ (by omega)]
  refine congrArg List.length ?_
  apply List.filter_congr
  intro id _
  rw [decide_eq_decide]
  omega

/-- R13: the moments a forward step misses, as a count over the listed minutes. -/
theorem missed_eq (tab : List SlotEntry) (old new : Nat) (h : old < new) :
    momentsUpTo tab new - momentsUpTo tab old - (if inGrace old new && listed tab (new / Config.minuteMs % 1440)
        then 1 else 0)
      = (missedAtStep tab old new).length := by
  have h1 : momentsUpTo tab new - momentsUpTo tab old = (collected tab old new).length := by
    rw [momentsUpTo_eq, momentsUpTo_eq]
    obtain ⟨m, hm⟩ : ∃ m, new / 60000 + 1 = (old / 60000 + 1) + m := ⟨new / 60000 - old / 60000, by omega⟩
    simp only [collected, hm]
    rw [List.range_add, List.filter_append, List.filter_append, List.length_append, List.length_append]
    have e1 : (List.range (old / 60000 + 1)).filter (fun n => decide (old < n * 60000) && listed tab (n % 1440)) =
        [] := by
      rw [List.filter_eq_nil_iff]
      intro a ha
      have := List.mem_range.1 ha
      simp; omega
    rw [e1]
    have e2 : ((List.range m).map (old / 60000 + 1 + ·)).filter (fun n => decide (old < n * 60000)
        && listed tab (n % 1440))
        = ((List.range m).map (old / 60000 + 1 + ·)).filter (fun n => listed tab (n % 1440)) := by
      apply List.filter_congr
      intro a ha
      simp only [List.mem_map] at ha
      obtain ⟨b, _, rfl⟩ := ha
      have : old < (old / 60000 + 1 + b) * 60000 := by omega
      simp [this]
    rw [e2]; simp
  rw [h1]
  -- the late ones
  have : (collected tab old new).length =
      (missedAtStep tab old new).length + (if inGrace old new && listed tab (new / Config.minuteMs % 1440)
      then 1 else 0) := by
    have hn : ∀ n ∈ List.range (new / 60000), (decide (old < n * 60000) && listed tab (n % 1440)) =
        ((decide (30000 < new - n * 60000)) && (decide (old < n * 60000) && listed tab (n % 1440))) := by
      intro n hn
      have := List.mem_range.1 hn
      have : 30000 < new - n * 60000 := by omega
      simp [this]
    simp only [missedAtStep, collected, List.filter_filter]
    rw [count_range, count_range, ← List.filter_congr hn]
    simp only [inGrace, Config.minuteMs, Config.graceMs]
    by_cases hL : listed tab (new / 60000 % 1440) = true <;> by_cases hO :
        old < new / 60000 * 60000 <;> by_cases hG : 30000 < new - new / 60000 * 60000
    all_goals simp [hL, hO, hG]
    all_goals omega
  omega

/-- R13: the moment a step lands at or just after is listed and within grace. -/
theorem inGrace_iff (tab : List SlotEntry) (old new : Nat) :
    ((inGrace old new && listed tab (new / Config.minuteMs % 1440)) = true)
    ↔ (new / 60000 ∈ collected tab old new ∧ new - new / 60000 * 60000 ≤ 30000) := by
  simp only [inGrace, collected, List.mem_filter, List.mem_range, Config.minuteMs, Config.graceMs,
      Bool.and_eq_true, decide_eq_true_eq]
  constructor
  · rintro ⟨⟨a, b⟩, c⟩; exact ⟨⟨by omega, a, c⟩, b⟩
  · rintro ⟨⟨_, a, c⟩, b⟩; exact ⟨⟨a, b⟩, c⟩

/-- R12, R13: what a forward step does about slot moments in IDLE. -/
theorem stepSlots_idle (old new : Nat) (v : State) (hi : v.she.engine = .idle) (h : old < new) :
    let late := missedAtStep v.sck.slots old new
    let w := if late = [] then v else raiseFault .slotMissed (min late.length 255) v
    stepSlots old new v =
        { w with she := sheAfterStep v.now old new (v.sck.grade ≤ 14 ∧ v.sck.level ≠ .closed) v } := by
  intro late w
  have hb : ∀ (b : Bool) (c : Bool), (if b = true then 1 else 0 : Nat) = (if (b : Bool) then 1 else 0) :=
      by intros; rfl
  unfold stepSlots
  simp only [missed_eq v.sck.slots old new h]
  have hw : (if (missedAtStep v.sck.slots old new).length = 0 then v else
      raiseFault .slotMissed (min (missedAtStep v.sck.slots old new).length 255) v) = w := by
    simp only [w, late, List.length_eq_zero_iff]
  rw [hw]
  have w1 : w.sck = v.sck := by simp only [w]; split <;> simp
  have w2 : w.she = v.she := by simp only [w]; split <;> simp
  have w3 : w.now = v.now := by simp only [w]; split <;> simp
  have w4 : w.iml = v.iml := by simp only [w]; split <;> simp
  have key : ∀ x : She, x = v.she → w = { w with she := x } := by intro x hx; rw [hx, ← w2]
  by_cases hg : (inGrace old new && listed v.sck.slots (new / Config.minuteMs % 1440)) = true
  · rw [if_pos hg]
    obtain ⟨g1, g2⟩ := (inGrace_iff _ _ _).1 hg
    have hl : listed v.sck.slots (new / Config.minuteMs % 1440) = true := by simp at hg; exact hg.2
    simp only [raiseSlot, w1, hl, true_and]
    simp only [sheAfterStep, g1, g2, true_and]
    by_cases hd : v.sck.lastSlot ≠ some (new / Config.minuteMs % 1440, new / Config.minuteMs / 1440)
    · rw [if_pos hd]
      unfold slotMoment
      rw [w2, hi]
      simp only []
      simp only [mayCall, w1, w4]
      have hs : new / Config.minuteMs % 1440 ≠ Config.serviceSlot := by simp [Config.serviceSlot]; omega
      by_cases hm : v.iml.station = .inService ∧ v.sck.grade ≤ 14 ∧ v.sck.level ≠ .closed
      · rw [if_pos, if_pos]
        · simp only [State.modShe, ownNo, w2, w3, w4, Config.minuteMs, Config.callDelayUs]
          congr 3
          ring_nf
        · exact ⟨hd, hm.1, by simpa using hm.2⟩
        · simp only [hm.1, hm.2.1]; simp [hm.2.2]
      · rw [if_neg, if_neg]
        · exact (key _ rfl).trans (by rw [w1, w4])
        · rintro ⟨_, a, b⟩; exact hm ⟨a, by simpa using b⟩
        · intro hc
          apply hm
          simp only [Bool.and_eq_true, Bool.or_eq_true, beq_iff_eq, decide_eq_true_eq, hs, or_false, bne_iff_ne] at hc
          exact ⟨hc.1.1, hc.1.2, hc.2⟩
    · rw [if_neg hd, if_neg]
      · exact (key _ rfl).trans (by rw [w1, w4])
      · rintro ⟨a, _⟩; exact hd a
  · rw [if_neg hg]
    rw [key (sheAfterStep v.now old new (v.sck.grade ≤ 14 ∧ v.sck.level ≠ .closed) v)]
    simp only [sheAfterStep]
    rw [if_neg]
    rintro ⟨a, b, _⟩
    exact hg ((inGrace_iff _ _ _).2 ⟨a, b⟩)

/-- R12: a step of the clock, whatever its direction. -/
theorem stepClock_eq (t new : Nat) (s : State) (hn : s.now = t) :
    ∃ q, let k : Sck := { s.sck with
        clkMs := new, clkAt := t, slew := 0, slewTimer := none, minuteDone := new / 60000
        entry := matchDay s.sck.calendar (new / 86400000), quiet := q
        level := levelAt ((matchDay s.sck.calendar (new / 86400000)).bind fun i => s.sck.calendar[i]?)
            s.sck.grade q.isSome (new % 86400000 / 60000) }
      let v := { s with sck := k, chr := { s.chr with lamps := lampsAt t k.level s } }
      clockMs v = new ∧
      (new ≤ clockMs s → stepClock new s = v)
      ∧ (clockMs s < new → s.she.engine = .idle →
        let late := missedAtStep s.sck.slots (clockMs s) new
        let w := if late = [] then v else raiseFault .slotMissed (min late.length 255) v
        stepClock new s = { w with she := sheAfterStep t (clockMs s) new (s.sck.grade ≤ 14 ∧ k.level ≠ .closed) s })
      ∧ ∃ h f b, stepClock new s = { v with she := h, flt := f, bus := b } := by
  have hcl : ∀ u : State, u.sck.clkMs = new → u.sck.clkAt = u.now → clockMs u = new := by
    intro u a b; simp [clockMs, a, b]
  let k : Option Nat → Sck := fun q => { s.sck with
    clkMs := new, clkAt := t, slew := 0, slewTimer := none, minuteDone := new / 60000
    entry := matchDay s.sck.calendar (new / 86400000), quiet := q
    level := levelAt ((matchDay s.sck.calendar (new / 86400000)).bind fun i => s.sck.calendar[i]?)
      s.sck.grade q.isSome (new % 86400000 / 60000) }
  have base : ∀ q, recomputeLevel (matchCalendar { s with sck := { s.sck with
      clkMs := new, clkAt := t, slew := 0, slewTimer := none, minuteDone := new / 60000, quiet := q } }) =
      { s with sck := k q, chr := { s.chr with lamps := lampsAt t (k q).level s } } := by
    intro q
    simp only [recomputeLevel_eq, matchCalendar, State.modSck, levelOf_eq, dayNo, minuteOfDay, timeOfDay]
    rw [hcl _ rfl hn.symm, hcl _ rfl hn.symm]
    simp only [k, entryInForce, Config.dayMs, Config.minuteMs, hn]
    cases matchDay s.sck.calendar (new / 86400000) <;> rfl
  have e : ∃ q, stepClock new s = (if clockMs s < new then stepSlots (clockMs s) new (recomputeLevel (matchCalendar
        { s with sck := { s.sck with
          clkMs := new, clkAt := t, slew := 0, slewTimer := none, minuteDone := new / 60000, quiet := q } }))
      else recomputeLevel (matchCalendar { s with sck := { s.sck with
          clkMs := new, clkAt := t, slew := 0, slewTimer := none, minuteDone := new / 60000, quiet := q } })) := by
    cases hr : stepReaches (clockMs s) new s with
    | none => exact ⟨s.sck.quiet, by simp only [stepClock, hr, State.modSck, hn, Config.minuteMs]⟩
    | some n =>
      exact ⟨s.sck.quiet.filter fun e => !(e == n || (decide (min s.sck.minuteDone (clockMs s / 60000) < e)
        && decide (e ≤ n))), by simp only [stepClock, hr, endQuiet, State.modSck, hn, Config.minuteMs]⟩
  obtain ⟨q, e⟩ := e
  rw [base] at e
  refine ⟨q, hcl _ rfl hn.symm, fun hc => e.trans (if_neg (by omega)), fun h hi => ?_, ?_⟩
  · rw [e, if_pos h]
    refine (stepSlots_idle _ _ _ (by exact hi) h).trans ?_
    subst hn
    rfl
  · by_cases h : clockMs s < new
    · rw [e, if_pos h]
      exact stepSlots_frame _ _ _
    · exact ⟨s.she, s.flt, s.bus, e.trans (if_neg h)⟩

/-- R20, R10: a slot moment begins and ends no show. -/
theorem slotMoment_show (slot : Nat) (kind : Option SlotKind) (day : Nat) (r : Option Nat) (s : State) :
    inShow (slotMoment slot kind day r s) = inShow s ∧ (slotMoment slot kind day r s).she.showRec = s.she.showRec := by
  unfold slotMoment
  cases he : s.she.engine with
  | idle =>
    simp only
    split
    · simp [inShow, he, State.modShe]
    · exact ⟨rfl, rfl⟩
  | _ => simp only [inShow, raiseFault_she, he, and_self]

/-- A moment raised begins and ends no show. -/
theorem raiseSlot_show (id day : Nat) (s : State) :
    inShow (raiseSlot id day s) = inShow s ∧ (raiseSlot id day s).she.showRec = s.she.showRec := by
  unfold raiseSlot
  split
  · exact slotMoment_show _ _ _ _ _
  · exact ⟨rfl, rfl⟩

/-- The moments of a step begin and end no show. -/
theorem stepSlots_show (a b : Nat) (s : State) :
    inShow (stepSlots a b s) = inShow s ∧ (stepSlots a b s).she.showRec = s.she.showRec := by
  have h1 : ∀ (p : Prop) [Decidable p] (d : Nat),
      inShow (if p then s else raiseFault .slotMissed d s) = inShow s
        ∧ (if p then s else raiseFault .slotMissed d s : State).she.showRec = s.she.showRec := by
    intro p _ d; split
    · exact ⟨rfl, rfl⟩
    · simp [inShow]
  unfold stepSlots
  dsimp only
  split
  · exact ⟨(raiseSlot_show _ _ _).1.trans (h1 _ _).1, (raiseSlot_show _ _ _).2.trans (h1 _ _).2⟩
  · exact h1 _ _

/-- A step of the clock leaves the station in the show it is in. -/
theorem stepClock_show (new : Nat) (s : State) :
    inShow (stepClock new s) = inShow s ∧ (stepClock new s).she.showRec = s.she.showRec := by
  have h1 : ∀ u : State, inShow (recomputeLevel (matchCalendar u)) = inShow u
      ∧ (recomputeLevel (matchCalendar u)).she.showRec = u.she.showRec := by
    intro u; rw [recomputeLevel_eq]; exact ⟨rfl, rfl⟩
  have h2 : ∀ u, inShow u = inShow s ∧ u.she.showRec = s.she.showRec →
      inShow (if clockMs s < new then stepSlots (clockMs s) new (recomputeLevel (matchCalendar u))
        else recomputeLevel (matchCalendar u)) = inShow s
      ∧ (if clockMs s < new then stepSlots (clockMs s) new (recomputeLevel (matchCalendar u))
        else recomputeLevel (matchCalendar u)).she.showRec = s.she.showRec := by
    intro u hu
    split
    · exact ⟨((stepSlots_show _ _ _).1.trans (h1 _).1).trans hu.1,
        ((stepSlots_show _ _ _).2.trans (h1 _).2).trans hu.2⟩
    · exact ⟨(h1 _).1.trans hu.1, (h1 _).2.trans hu.2⟩
  refine h2 _ ?_
  cases stepReaches (clockMs s) new s <;> exact ⟨rfl, rfl⟩

/-- The lamps by a level depend on the level before, the show and the lamps alone. -/
theorem lampsAt_congr (t : Nat) (lv : Level) {u v : State} (h1 : u.sck.level = v.sck.level) (h2 : inShow u = inShow v)
    (h3 : u.she.showRec = v.she.showRec) (h4 : u.chr.lamps = v.chr.lamps) : lampsAt t lv u = lampsAt t lv v := by
  simp only [lampsAt, lampsWorked, h1, h2, h3, h4]

/-- The fault list after a fault depends on the list, the station and the clock alone. -/
theorem raiseFault_flt_congr (c : FaultCode) (d : Nat) {u v : State} (h1 : u.flt = v.flt) (h2 : u.iml = v.iml)
    (h3 : u.bus.queue.length = v.bus.queue.length) (h4 : clockMs u = clockMs v) : (raiseFault c d u).flt =
        (raiseFault c d v).flt := by
  have hr : ∀ (c : FaultCode) (d : Nat) (u v : State), u.flt = v.flt → clockMs u = clockMs v →
      (recordFault c d u).flt = (recordFault c d v).flt := by
    intro c d u v a b
    simp only [recordFault, State.modFlt, dayNo, minuteOfDay, timeOfDay, a, b]
  simp only [raiseFault]
  rw [show reportsFault u c d = reportsFault v c d by simp [reportsFault, maySend, h1, h2]]
  simp only [recordFault_bus, h3]
  by_cases a : reportsFault v c d = true <;> by_cases b : v.bus.queue.length < 8 <;> simp only [a, b, if_true,
      if_false, appendFrame_flt, Bool.false_eq_true]
  · exact hr _ _ _ _ h1 h4
  · exact hr _ _ _ _ (hr _ _ _ _ h1 h4) h4
  · exact hr _ _ _ _ h1 h4
  · exact hr _ _ _ _ h1 h4

/-! ## Shows (R34 to R36, R50, R65) -/

/-- No figure configured. -/
theorem figNumbers_none {s : State} (h : ∀ f, figRec s f = none) : figNumbers s = [] := by
  simp [figNumbers, h]

/-- A station that sends is not muted. -/
theorem sends_not_muted {s : State} (h : Sends s) : isMuted s = false := by
  rcases h with h | ⟨h, m⟩ <;> simp [isMuted, *]

/-- A fault queues one frame at most. -/
theorem raiseFault_queue_length (c : FaultCode) (d : Nat) (s : State) :
    (raiseFault c d s).bus.queue.length ≤ s.bus.queue.length + 1 := by
  simp only [raiseFault]
  split
  · split
    · simp [appendFrame, State.modBus]
    · simp
  · simp

/-- R36: a station taken out of the participant set. -/
theorem removeMember_eq (n : Nat) (u : State) :
    removeMember n u = if inShow u then withoutMember n u else u := by
  unfold removeMember withoutMember participants
  by_cases hi : inShow u = true
  · simp only [hi, true_and, if_true]
    cases hr : u.she.showRec with
    | none => simp [Bits.mem]
    | some r =>
      simp only [Option.map_some, Option.getD_some]
      by_cases hm : Bits.mem r.members n = true
      · simp only [hm, if_true]
        have hset : setMembers (Bits.erase r.members n) u =
            { u with she := { u.she with showRec := some { r with members := Bits.erase r.members n } } } := by
          simp only [setMembers, State.modShe, hr, Option.map_some]
        rw [hset]
        cases hg : u.gtu.gate with
        | none => exact recheck_other _ (by intro g h; rw [show u.gtu.gate = some g from h] at hg; cases hg)
        | some g =>
          by_cases hp : g.phase = .ready
          · refine (recheck_ready _ g (by exact hg) hp).trans ?_
            simp only [hp, ne_eq, not_true, if_false]
            rfl
          · simp only [ne_eq, hp, not_false_eq_true, if_true]
            exact recheck_other _ (by intro k h; rw [show u.gtu.gate = some k from h] at hg; cases hg; exact hp)
      · simp [hm]
  · simp [hi]

/-- R36: what taking a station out does has no part in the zones. -/
theorem withoutMember_zon (n : Nat) (u : State) (z : Zon) : withoutMember n { u with zon := z } =
    { withoutMember n u with zon := z } := by
  unfold withoutMember
  rcases u with ⟨now, r, iml, sck, she, gtu, csq, bel, fig, zon, chr, bus, flt, pend⟩
  simp only
  cases she.showRec with
  | none => rfl
  | some r =>
    simp only
    cases gtu.gate with
    | none => simp only; split <;> rfl
    | some g =>
      rcases g with ⟨num, ph, rs, li, rm, tm, st, rf, gf, rl⟩
      cases gf with
      | none => simp only; split; split; rfl; split <;> rfl; rfl
      | some id =>
        simp only [removeFrame, inTransmission]
        by_cases h1 : (bus.current == some id) = true <;> by_cases h2 : Bits.mem r.members n = true <;>
          by_cases h3 : ph = .ready <;> by_cases h4 : Bits.subset (Bits.erase r.members n) rs = true <;>
          simp [h1, h2, h3, h4, State.modBus, ownNo]

/-- R31, R138: a station in no show that enters ARMING: the lamp hold lifts for slot 2047 alone. -/
theorem judgeHold_arming (r : ShowRec) (s : State) (hi : inShow s = false) :
    judgeHold s (s.modShe fun _ => ⟨.arming, none, none, none, some r⟩) = { s with
      she := ⟨.arming, none, none, none, some r⟩
      chr := { s.chr with
        lamps := if s.sck.level = .closed ∧ r.slot = 2047 then lampsWorked s.now s else s.chr.lamps } } := by
  have h0 : lampHold s = true ↔ s.sck.level = .closed := by simp [lampHold, serviceShow, hi]
  have h1 : lampHold (s.modShe fun _ => ⟨.arming, none, none, none, some r⟩) = false ↔
      (s.sck.level ≠ .closed ∨ r.slot = 2047) := by
    simp [lampHold, serviceShow, inShow, State.modShe, Config.serviceSlot, imp_iff_not_or]
  by_cases h : s.sck.level = .closed ∧ r.slot = 2047
  · rw [judgeHold, if_pos ⟨h0.2 h.1, h1.2 (.inr h.2)⟩, if_pos h]
    rfl
  · rw [judgeHold, if_neg, if_neg h]
    · rfl
    · rintro ⟨a, b⟩
      exact h ⟨h0.1 a, (h1.1 b).resolve_left fun c => c (h0.1 a)⟩

/-- R50: a withdrawal from a show at a station that sends and has no figure. -/
theorem withdrawShow_eq (why : Reason) (s : State) (he : s.she.engine ∈ [Engine.arming, .gateWait, .running])
    (hs : Sends s)
    (hf : ∀ f, figRec s f = none) (hq : s.bus.queue.length < 7) : withdrawShow why s = withdrawnFrom why s := by
  have h1 : withdrawShow why s = withdrawRunning why s := by
    simp only [List.mem_cons, List.not_mem_nil, or_false] at he
    unfold withdrawShow
    rcases he with he | he | he <;> simp only [he]
  rw [h1]
  have hm : isMuted s = false := sends_not_muted hs
  have hlen := raiseFault_queue_length .withdrawn (progNo s) (leaveShow s)
  have hl2 : (leaveShow s).bus.queue.length = s.bus.queue.length := rfl
  have hsw : sendWithdraw why (raiseFault .withdrawn (progNo s) (leaveShow s)) =
      { raiseFault .withdrawn (progNo s) (leaveShow s) with
        bus := (raiseFault .withdrawn (progNo s) (leaveShow s)).bus.queued (.withdraw (showSlot s) why) } := by
    rw [sendWithdraw, if_neg, queueFrame_room _ _ (by omega)]
    · have : showSlot (raiseFault .withdrawn (progNo s) (leaveShow s)) = showSlot s := by
        simp only [showSlot, raiseFault_she, leaveShow, State.modShe]
        cases s.she.showRec <;> rfl
      rw [this]; rfl
    · simp only [isMuted, raiseFault_iml]
      simp only [isMuted] at hm
      simp [leaveShow, hm]
  simp only [withdrawRunning, hsw]
  have hfl : ∀ u : State, u.iml = s.iml → u.fig = s.fig → figsLeave u = clearMoves u := by
    intro u h1 h2
    rw [figsLeave, if_neg (by simp [isMuted, h1]; simpa [isMuted] using hm), figsWithdraw]
    rw [figNumbers_none (by intro f; simpa [figRec, h2] using hf f)]
    rfl
  rw [hfl _ (by simp only [bellsWithdraw, dropDampers, setEngine, State.modBel, State.modShe, raiseFault_iml]; rfl)
    (by simp only [bellsWithdraw, dropDampers, setEngine, State.modBel, State.modShe, raiseFault_fig]; rfl)]
  have hg : isGateFrame = fun c => match c with
          | .ready _ _ | .go _ _ _ => true
          | _ => false := by funext c; cases c <;> rfl
  simp only [withdrawnFrom, lampsOut, clearGate, cuesWithdraw, clearMoves, bellsWithdraw, dropDampers, setEngine,
      strobeLow, removeFrames, State.modChr, State.modGtu, State.modBus, State.modCsq, State.modFig, State.modBel,
      State.modShe, showTime, hg]
  simp only [raiseFault_csq, raiseFault_now, raiseFault_she, raiseFault_bel, raiseFault_fig, raiseFault_chr,
      raiseFault_gtu]
  rfl

/-- R131: what a withdrawn request leaves alone. -/
theorem withdrawRequest_kept (f : Nat) (s : State) :
    (withdrawRequest f s).fig = s.fig ∧ (withdrawRequest f s).she = s.she ∧ (withdrawRequest f s).gtu = s.gtu
      ∧ (withdrawRequest f s).iml = s.iml ∧ (withdrawRequest f s).now = s.now
      ∧ (withdrawRequest f s).bus.queue.length ≤ s.bus.queue.length
      ∧ (withdrawRequest f s).zon.granted = s.zon.granted := by
  unfold withdrawRequest
  have hr : ∀ i u, (removeFrame i u).bus.queue.length ≤ u.bus.queue.length := by
    intro i u; unfold removeFrame; split
    · exact le_refl _
    · exact List.length_filter_le _ _
  split
  · simp
  · split
    · exact ⟨rfl, rfl, rfl, rfl, rfl, le_refl _, rfl⟩
    · split
      · simp only [oweTrial, dropRequest, revertOwnGroup, State.modZon, removeFrame_fig, removeFrame_she,
            removeFrame_gtu, removeFrame_iml, removeFrame_now, removeFrame_zon, true_and]
        exact ⟨hr _ _, trivial⟩
      · exact ⟨rfl, rfl, rfl, rfl, rfl, le_refl _, rfl⟩

/-- One figure configured. -/
theorem figNumbers_one {s : State} {f : Nat} {c : FigRec} (hf : f ≤ 6) (hc : figRec s f = some c) (ho : ∀ k ≤ 6,
    k ≠ f → figRec s k = none) :
    figNumbers s = [f] := by
  apply filter_single _ f hf
  intro g hg
  by_cases h : g = f
  · subst h; simp [hc]
  · simp [ho g hg h, h]

/-- R113, R115: the withdrawal at a station with one figure. -/
theorem figsWithdraw_one {s : State} {f : Nat} {c : FigRec} (hf : f ≤ 6) (hlen : f < s.fig.run.length) (hc :
    figRec s f = some c) (ho : ∀ k ≤ 6, k ≠ f → figRec s k = none)
    (hst : ((figRun s f).state ∈ [FigState.moving, .paused]
            ∨ ((figRun s f).state ∈ [FigState.waitZone, .parked] ∧ (figRun s f).duty = 0)))
    (hq : s.bus.queue.length < 8) :
    let w := figsWithdraw s
    w.she = s.she ∧ w.iml = s.iml ∧ w.now = s.now ∧ (figRun w f).duty = 0 ∧ (figRun w f).showMove = false
            ∧ (figRun w f).pos = (figRun s f).pos
            ∧ if (c.park - (figRun s f).pos) + ((figRun s f).pos - c.park) ≤ c.window then
                (figRun w f).state = .parked ∧ (figRun w f).run = none
                ∧ ∀ z < 64, zoneAt w z ≠ .held (ownNo s) (some f)
              else (figRun w f).state = .homing
                ∧ (figRun w f).run = some ⟨.homing, [(c.park, c.creep)], 1, 100,
                  c.homingZones.map fun z => (z, 0), false, .claim, .seek, .off, false⟩
                ∧ if c.homingZones = [] then f ∈ w.zon.granted
                  else ⟨f, c.homingZones, .waiting⟩ ∈ w.zon.reqs ∧ w.zon.trialDue = true := by
  have e0 : figNumbers s = [f] := figNumbers_one hf hc ho
  -- after the motors
  obtain ⟨v, hv, v1, v2, v3, v4, v5, v6, v7, v8, v9⟩ : ∃ v, cutMotor (clearMoves s) f = v ∧ v.she = s.she ∧
      v.iml = s.iml ∧ v.now = s.now ∧ v.bus = s.bus ∧ v.zon = s.zon
      ∧ figRec v f = some c ∧ f < v.fig.run.length ∧ v.gtu = s.gtu
      ∧ ((figRun v f).duty = 0 ∧ (figRun v f).showMove = false ∧ (figRun v f).pos = (figRun s f).pos ∧
          (figRun v f).state = (figRun s f).state) := by
    refine ⟨_, rfl, ?_⟩
    have hcl : figRun (clearMoves s) f = { figRun s f with showMove := false } := by
      simp [figRun, clearMoves, stopMoves, State.modFig, List.getD_eq_getElem?_getD, hlen]
    have hcl2 : f < (clearMoves s).fig.run.length := by simpa [clearMoves, State.modFig] using hlen
    have hclc : figRec (clearMoves s) f = some c := hc
    unfold cutMotor
    have key : (∃ d, setDuty f 0 (clearMoves s) = modFigRun f d (clearMoves s) ∧ d (figRun (clearMoves s) f) =
        { figRun s f with showMove := false, duty := 0, coast := (d (figRun (clearMoves s) f)).coast, jam := none
            }) := by
      refine ⟨_, rfl, ?_⟩
      rw [hcl]; rfl
    obtain ⟨d, hd1, hd2⟩ := key
    have hd3 := figRun_mod hcl2 d
    rw [hd2] at hd3
    rcases hst with h | ⟨h, hz⟩ <;> simp only [List.mem_cons, List.not_mem_nil, or_false]
        at h <;> rcases h with h | h <;>
      simp only [hcl, h]
    · rw [hd1]; exact ⟨rfl, rfl, rfl, rfl, rfl, hc, by simpa [modFigRun, State.modFig] using hcl2, rfl,
          by rw [hd3], by rw [hd3], by rw [hd3], by rw [hd3]; exact h⟩
    · rw [hd1]; exact ⟨rfl, rfl, rfl, rfl, rfl, hc, by simpa [modFigRun, State.modFig] using hcl2, rfl,
          by rw [hd3], by rw [hd3], by rw [hd3], by rw [hd3]; exact h⟩
    · exact ⟨rfl, rfl, rfl, rfl, rfl, hc, hcl2, rfl, hz, by trivial, by trivial, by trivial⟩
    · exact ⟨rfl, rfl, rfl, rfl, rfl, hc, hcl2, rfl, hz, by trivial, by trivial, by trivial⟩
  have hw : figsWithdraw s = figWithdraws v f := by
    rw [figsWithdraw, e0]; simp only [List.foldl_cons, List.foldl_nil]; rw [hv]
  intro w
  obtain ⟨d1, d2, d3, d4⟩ := v9
  have hcase : w = if atPark c (figRun v f) then
        releaseAsk f (heldZones (withdrawRequest f v) f)
          (modFigRun f (fun q => { q with run := none, hold := none, state := .parked }) (withdrawRequest f v))
      else beginHoming f (withdrawRequest f v) := by
    change figsWithdraw s = _
    rw [hw, figWithdraws]
    simp only [v6]
    have : (figRun v f).state ∈ [FigState.moving, .paused, .waitZone, .parked] := by
      rw [d4]; rcases hst with h | ⟨h, _⟩ <;> simp at h ⊢ <;> tauto
    simp only [List.mem_cons, List.not_mem_nil, or_false] at this
    rcases this with h | h | h | h <;> simp only [h]
  obtain ⟨k1, k2, k3, k4, k5, k6, k7⟩ := withdrawRequest_kept f v
  have hfr : figRun (withdrawRequest f v) f = figRun v f := by simp [figRun, k1]
  have hfl : f < (withdrawRequest f v).fig.run.length := by rw [k1]; exact v7
  have hfc : figRec (withdrawRequest f v) f = some c := by simpa [figRec, k1] using v6
  have hpk : atPark c (figRun v f) = true ↔ (c.park - (figRun s f).pos) + ((figRun s f).pos - c.park) ≤ c.window := by
    simp only [atPark, gap, d3, decide_eq_true_eq]
  by_cases hp : (c.park - (figRun s f).pos) + ((figRun s f).pos - c.park) ≤ c.window
  · rw [if_pos (hpk.2 hp)] at hcase
    rw [if_pos hp]
    set m := modFigRun f (fun q => { q with run := none, hold := none, state := .parked }) (withdrawRequest f v)
        with hm
    have hmf : figRun m f = { figRun v f with run := none, hold := none, state := .parked } := by
      rw [hm, figRun_mod hfl, hfr]
    have hown : ownNo m = ownNo s := by rw [hm]; simp only [ownNo, modFigRun, State.modFig, k4, v2]
    have hz : heldZones (withdrawRequest f v) f = heldZones m f := rfl
    have hrel : ∃ x b fl, releaseAsk f (heldZones (withdrawRequest f v) f) m =
        { m with zon := x, bus := b, flt := fl } ∧ (∀ z < 64, x.view.getD z .free ≠ .held (ownNo s) (some f)) := by
      rw [hz, releaseAsk]
      have hq2 : m.bus.queue.length < 8 := by
        rw [hm]; have : (withdrawRequest f v).bus.queue.length < 8 := lt_of_le_of_lt k6 (by rw [v4]; exact hq)
        exact this
      have hfil : (heldZones m f).filter (heldFor m f) = heldZones m f := by
        rw [heldZones, zonesWhere, List.filter_filter]; simp
      rw [hfil]
      by_cases hn : heldZones m f = []
      · simp only [hn, if_true]
        refine ⟨m.zon, m.bus, m.flt, rfl, ?_⟩
        intro z hz64 hc
        have : z ∈ heldZones m f := by
          simp only [heldZones, zonesWhere, List.mem_filter, List.mem_range, hz64, true_and, heldFor, hown]
          rw [show zoneAt m z = _ from hc]; simp
        rw [hn] at this; simp at this
      · simp only [hn, if_false]
        have hview : ∀ z < 64, (m.zon.view.mapIdx fun z e => if z ∈ heldZones m f then ZoneEntry.held (ownNo m)
            none else e).getD z .free ≠ .held (ownNo s) (some f) := by
          intro z hz64
          by_cases hl : z < m.zon.view.length
          · simp only [List.getD_eq_getElem?_getD, List.getElem?_mapIdx, List.getElem?_eq_getElem hl,
                Option.map_some, Option.getD_some]
            split
            · simp
            · rename_i hne
              intro hc
              apply hne
              simp only [heldZones, zonesWhere, List.mem_filter, List.mem_range, hz64, true_and, heldFor, hown]
              rw [zoneAt_getElem m z hl] at hc
              rw [hc]; simp
          · have : m.zon.view[z]? = none := List.getElem?_eq_none (by omega)
            simp [List.getD_eq_getElem?_getD, this]
        split
        · exact ⟨_, _, _, rfl, hview⟩
        · rw [queueFrame_room _ _ (lt_of_le_of_lt (List.length_filter_le _ _) hq2)]
          exact ⟨_, _, _, rfl, hview⟩
    obtain ⟨x, b, fl, hx, hxz⟩ := hrel
    rw [hx] at hcase
    have hwf : figRun w f = figRun m f := by rw [hcase]; rfl
    refine ⟨?_, ?_, ?_, ?_, ?_, ?_, ?_, ?_, ?_⟩
    · rw [hcase]; change (withdrawRequest f v).she = _; rw [k2, v1]
    · rw [hcase]; change (withdrawRequest f v).iml = _; rw [k4, v2]
    · rw [hcase]; change (withdrawRequest f v).now = _; rw [k5, v3]
    · rw [hwf, hmf]; exact d1
    · rw [hwf, hmf]; exact d2
    · rw [hwf, hmf]; exact d3
    · rw [hwf, hmf]
    · rw [hwf, hmf]
    · rw [hcase]; exact hxz
  · rw [if_neg (fun h => hp (hpk.1 h))] at hcase
    rw [if_neg hp]
    have hj : (figRun v f).state ≠ .jammed := by
      rw [d4]; rcases hst with h | ⟨h, _⟩ <;> simp at h <;> rcases h with h | h <;> simp [h]
    set q : FigRun := { figRun v f with
          state := .homing, hold := none, jamWait := .none, duty := 0, jam := none
          run := some ⟨.homing, [(c.park, c.creep)], 1, 100, homingSet c, false, .claim, .seek, .off, false⟩ } with hqd
    have hb : beginHoming f (withdrawRequest f v) =
        requestRun false f c.homingZones { withdrawRequest f v with
          fig := { (withdrawRequest f v).fig with run := (withdrawRequest f v).fig.run.set f q } } := by
      simp only [beginHoming, hfc, setDuty, modFigRun_mod]
      rw [modFigRun_put]
      simp [FigRun.withDuty, hfr, d1, hj, hqd]
    rw [hb] at hcase
    set m := ({ withdrawRequest f v with
        fig := { (withdrawRequest f v).fig with run := (withdrawRequest f v).fig.run.set f q } } : State) with hm
    have hmf : figRun m f = q := by
      simp [figRun, hm, List.getD_eq_getElem?_getD, hfl]
    have hreq : (requestRun false f c.homingZones m).fig = m.fig ∧ (requestRun false f c.homingZones m).she = m.she
        ∧ (requestRun false f c.homingZones m).iml = m.iml ∧ (requestRun false f c.homingZones m).now = m.now
        ∧ (if c.homingZones = [] then f ∈ (requestRun false f c.homingZones m).zon.granted
                  else ⟨f, c.homingZones, .waiting⟩ ∈ (requestRun false f c.homingZones m).zon.reqs ∧
                      (requestRun false f c.homingZones m).zon.trialDue = true) := by
      unfold requestRun
      by_cases hn : c.homingZones = []
      · simp only [hn, if_true]; simp [State.modZon]
      · simp only [hn, if_false]
        obtain ⟨j1, j2, j3, j4, j5, j6, j7⟩ := withdrawRequest_kept f m
        simp only [enterRequest, oweTrial, State.modZon, j1, j2, j4, j5]; simp
    obtain ⟨r1, r2, r3, r4, r5⟩ := hreq
    have hwf : figRun w f = q := by rw [hcase]; simp only [figRun, r1]; exact hmf
    refine ⟨?_, ?_, ?_, ?_, ?_, ?_, ?_, ?_, ?_⟩
    · rw [hcase, r2]; change (withdrawRequest f v).she = _; rw [k2, v1]
    · rw [hcase, r3]; change (withdrawRequest f v).iml = _; rw [k4, v2]
    · rw [hcase, r4]; change (withdrawRequest f v).now = _; rw [k5, v3]
    · rw [hwf]
    · rw [hwf]; exact d2
    · rw [hwf]; exact d3
    · rw [hwf]
    · rw [hwf]; rfl
    · rw [hcase]; exact r5

/-- R65: where both pointers stand at the end of the walk and the slots are EMPTY, no slot is left, no pointer moves
and none waits. -/
theorem ended_rests (s : State) (hp : s.csq.play.pos = none) (hl : s.csq.lead.pos = none)
    (ha : s.csq.slotA = CueSlot.vacant) (hb : s.csq.slotB = CueSlot.vacant) :
    (∀ n, leaveSlots n s = s) ∧ playMove s = none ∧ leadMove s = none ∧ dueCue s = none
      ∧ markWaiting s = { s with csq := { s.csq with
          play := { s.csq.play with waiting := none }, lead := { s.csq.lead with waiting := none } } } := by
  have hcv : cueView s s.csq.play = .ended := by simp [cueView, hp]
  have hcl : cueView s s.csq.lead = .ended := by simp [cueView, hl]
  refine ⟨?_, by simp [playMove, hcv], by simp [leadMove, hcl], by simp [dueCue, hcv], ?_⟩
  · intro n; cases n with
    | zero => rfl
    | succ n => simp [leaveSlots, slotLeft, ha, hb, CueSlot.vacant]
  · have e1 : waitsFor s s.csq.play false = none := by simp [waitsFor, hcv]
    have e2 : waitsFor s s.csq.lead true = none := by simp [waitsFor, hcl]
    simp only [markWaiting, State.modCsq, e1, e2]

/-- R67: at a resume with both pointers at the end of the walk no cue is taken. -/
theorem takeWaiting_ended (n k : Nat) (s : State) (hr : s.csq.running = true) (hp : s.csq.play.pos = none)
    (hl : s.csq.lead.pos = none) (ha : s.csq.slotA = CueSlot.vacant) (hb : s.csq.slotB = CueSlot.vacant) :
    takeWaiting n (leaveSlots k s) = { s with csq := { s.csq with
      play := { s.csq.play with waiting := none }, lead := { s.csq.lead with waiting := none } } } := by
  obtain ⟨h1, h2, h3, h4, h5⟩ := ended_rests s hp hl ha hb
  rw [h1, ← h5]
  cases n with
  | zero => rfl
  | succ n => simp [takeWaiting, hr, h2, leadTurn, h3, h4]

/-- The day of a call depends on the clock alone. -/
theorem callDay_congr {u v : State} (h : clockMs u = clockMs v) (x : Nat) : callDay u x = callDay v x := by
  unfold callDay nearestDay slotGap dayNo timeOfDay; rw [h]

/-- R14: the last-slot record written. -/
theorem writeLastSlot_dealt (a b : Nat) (s : State) : writeLastSlot a b s = { s with sck := s.sck.dealt a b } := by
  unfold writeLastSlot Sck.dealt
  split <;> rfl

/-! ## The line (R148 to R156) -/

/-- A frame is in assembly. -/
theorem midFrame_iff (a : List Byte) : midFrame a = true ↔ (a ≠ [] ∧ ¬(3 ≤ a.length ∧ a.length = byteAt a 2 + 4))
    := by
  simp only [midFrame, Bool.and_eq_true, Bool.not_eq_true', Bool.and_eq_false_iff, List.isEmpty_eq_false_iff,
      decide_eq_false_iff_not, beq_eq_false_iff_ne, ne_eq]
  tauto

/-- R148: the frames after one broken discard. -/
theorem mem_markDiscard (g : Nat) (u : State) :
      (g ∈ (markDiscard u).zon.marks ↔ g ∈ u.zon.marks ∨ ∃ w f, .pending (ownNo u) g (some w) f ∈ u.zon.view) := by
    simp only [markDiscard, State.modZon, List.mem_dedup, List.mem_append, List.mem_filterMap]
    refine or_congr_right ⟨?_, ?_⟩
    · rintro ⟨e, he, hm⟩
      rcases e with _ | ⟨st, g', _ | w, f⟩ | _ <;> simp at hm
      obtain ⟨rfl, rfl⟩ := hm
      exact ⟨w, f, he⟩
    · rintro ⟨w, f, he⟩
      exact ⟨_, he, by simp⟩

/-- R154: an attempt begins. -/
theorem begin_eq (t : Nat) (f : TxFrame) (fl : Nat) (cls : FrameClass) (s : State) :
    let inFrame := s.bus.assembly ≠ [] ∧ ¬(3 ≤ s.bus.assembly.length
      ∧ s.bus.assembly.length = byteAt s.bus.assembly 2 + 4)
    ∃ marks, beginAttempt f { s with now := t, bus := { s.bus with fails := fl, pointer := cls } } = { s with
        now := t, zon := { s.zon with marks := marks }
        bus := { s.bus with
          tx := .sending, current := some f.id, fails := fl, pointer := cls, attemptAt := t, assembly := []
          rxBroken := if inFrame then min 255 (s.bus.rxBroken + 1) else s.bus.rxBroken
          queue := s.bus.queue.map fun g => if g.id = f.id ∧ isTime g.content then
            { g with content := .time (some (s.sck.grade, clockMs { s with now := t })) } else g } }
        ∧ ∀ g, g ∈ marks ↔ g ∈ s.zon.marks ∨ (inFrame ∧ ∃ w f, .pending (ownNo s) g (some w) f ∈ s.zon.view) := by
  intro inFrame
  have hi : midFrame s.bus.assembly = true ↔ inFrame := midFrame_iff _
  by_cases hf : inFrame
  · refine ⟨(markDiscard s).zon.marks, ?_, ?_⟩
    rotate_left
    · intro g
      simp only [hf, true_and]
      exact mem_markDiscard g s
    · simp only [beginAttempt, dropAssembly]
      rw [if_pos (by exact hi.2 hf)]
      simp only [hf, if_true]
      rfl
  · refine ⟨s.zon.marks, ?_, ?_⟩
    · simp only [beginAttempt, dropAssembly]
      rw [if_neg (by exact fun h => hf (hi.1 h))]
      simp only [hf, if_false]
      rfl
    · intro g; simp [hf]

/-- R151: the frame the rotating arbitration picks. -/
theorem chosen_rot (l r : List TxFrame) (f : TxFrame) (s : State) (hr : s.bus.rotating = true) (hq : s.bus.queue =
    l ++ f :: r)
    (h1 : ∀ g ∈ l, (classRank s.bus.pointer + 2 - classRank (frameClass f.content))
        % 3 < (classRank s.bus.pointer + 2 - classRank (frameClass g.content)) % 3)
    (h2 : ∀ g ∈ r, (classRank s.bus.pointer + 2 - classRank (frameClass f.content))
        % 3 ≤ (classRank s.bus.pointer + 2 - classRank (frameClass g.content)) % 3) : chosen s = some f := by
  have key : ∀ c, c = frameClass f.content → oldestOf c s.bus.queue = some f := by
    intro c hc
    rw [oldestOf, hq, List.find?_append]
    have : List.find? (fun f => frameClass f.content == c) l = none := by
      simp only [List.find?_eq_none, beq_iff_eq]
      intro g hg he; have := h1 g hg; rw [he, hc] at this; omega
    rw [this]; simp [hc]
  have none' : ∀ c, (classRank s.bus.pointer + 2 - classRank c)
      % 3 < (classRank s.bus.pointer + 2 - classRank (frameClass f.content)) % 3 → oldestOf c s.bus.queue = none := by
    intro c hc
    rw [oldestOf, hq]
    simp only [List.find?_eq_none, beq_iff_eq, List.mem_append, List.mem_cons]
    rintro g (hg | rfl | hg) he
    · have := h1 g hg; rw [he] at this; omega
    · rw [he] at hc; omega
    · have := h2 g hg; rw [he] at this; omega
  rw [chosen, hr]
  simp only [if_true]
  cases hp : s.bus.pointer <;> cases hf : frameClass f.content <;> simp only [Machine.rotation, firstOf] <;>
    (try rw [none' .showClass (by rw [hf, hp]; decide)])
    <;> (try rw [none' .routine (by rw [hf, hp]; decide)]) <;> (try rw [none' .urgent (by rw [hf, hp]; decide)])
    <;> rw [key _ hf.symm]

/-! ## Cues and strikes (R67 to R70, R100) -/

/-- R67: a cue due whose run holds no gate left to take is handed over and both pointers go on. -/
theorem exec_cueDue_eq (t : Nat) (p : Pos) (q : Cue) (s : State) (hl : Live t s)
    (hrun : s.csq.running = true) (hcv : cueView s s.csq.play = .cue p q)
    (hval : cueValid s (partsOf s) p s.csq.play.prev q = true) (hpart : p.part = s.csq.seg.part)
    (hle : tauOf s.csq.seg (cueTick (partsOf s) p q) ≤ showTime { s with now := t })
    (hpg : pendingGate { s with now := t } p (cueTick (partsOf s) p q) = none) (hk : isStrikeKind q = false) :
    exec (.cueDue t) s = .next (settleZones trialFuel (pump (playCue p q (cueTick (partsOf s) p q)
      { s with now := t, csq := { s.csq with play := s.csq.play.step (partsOf s) (some q.tick) } }))) := by
  have hcv' : cueView { s with now := t } ({ s with now := t } : State).csq.play = .cue p q := hcv
  have hd : dueCue { s with now := t } = some (p, q, cueTick (partsOf s) p q) := by
    simp only [dueCue, hcv']
    rw [if_pos]
    · rfl
    · exact ⟨hrun, hval, hk, hpart, hle⟩
  simp only [exec, execCueDue, zoneEvent, event_live hl]
  congr 2
  simp only [playDue, hd]
  rw [if_pos (show ({ s with now := t } : State).csq.running = true from hrun)]
  simp only [dispatchPlay, hpg]
  rfl

/-- No gate stands: nothing is ready. -/
theorem gateCheck_inert (s : State) (h : ∀ g, s.gtu.gate = some g → g.phase ≠ .standing) : gateCheck s = s := by
  unfold gateCheck
  cases hg : s.gtu.gate with
  | none => rfl
  | some g =>
    have := h g hg
    cases hp : g.phase <;> simp_all [gateReady]

/-- R42: the readiness check of a later gate finds what `MeetsR42` says. -/
theorem gateReady_iff (g : GateRec) (s : State) (h0 : g.number ≠ some 0) : gateReady s g = true ↔ MeetsR42 g s := by
  unfold gateReady MeetsR42 movesEnded nextCueHeld itemHeld
  rcases hn : g.number with _ | n
  · simp
  · cases n with
    | zero => exact absurd hn h0
    | succ n =>
      simp only [Bool.and_eq_true, beq_iff_eq, List.all_eq_true, Bool.not_eq_eq_eq_not, Bool.not_true,
        Option.some.injEq, Nat.add_right_cancel_iff, exists_eq', true_and]
      refine and_congr_right fun _ => and_congr_right fun _ => ?_
      rcases s.csq.gateAfter with _ | ⟨_ | p, item⟩
      · simp
      · simp
      · simp only [Bool.or_eq_true]
        rw [or_assoc]
        refine or_congr_right (or_congr ?_ (by simp [itemPassed]))
        cases slotOf s item with
        | none => simp
        | some sl => simp

/-- R43: a station found ready at a gate, its queue with room for the READY. -/
theorem gateCheck_ready {g : GateRec} {s : State} (hg : s.gtu.gate = some g) (hr : gateReady s g = true)
    (hq : s.bus.queue.length < 8) : gateCheck s = readyAt g s := by
  simp only [gateCheck, hg, hr, if_true, becomeReady, queueReady]
  rw [queueFrame_room _ _ (by exact hq)]
  simp only [readyAt, modGate, State.modGtu, setEngine, State.modShe, hg, Option.map_some]
  rfl

/-- R42: a station found not ready at a gate. -/
theorem gateCheck_not {g : GateRec} {s : State} (hg : s.gtu.gate = some g) (hr : ¬gateReady s g = true) :
    gateCheck s = s := by
  simp only [gateCheck, hg, hr]; rfl

/-- R100: a MOVE is resolved if its path has waypoints, all within travel max. -/
theorem resolveMove_eq (c : FigRec) (p : PathRec) (m : Bool) :
    resolveMove c p m = if p.waypoints ≠ [] ∧ ∀ w ∈ p.waypoints, w.1 ≤ c.travelMax then
      some (p.waypoints.map fun w => (if m then c.travelMax - w.1 else w.1, w.2)) else none := by
  unfold resolveMove
  by_cases h : p.waypoints = []
  · simp [h]
  · by_cases h2 : ∀ w ∈ p.waypoints, w.1 ≤ c.travelMax
    · rw [if_neg, if_pos ⟨h, h2⟩]
      simp only [h, false_or, List.any_eq_true, decide_eq_true_eq, not_exists, not_and, not_lt]
      exact h2
    · rw [if_pos, if_neg (fun a => h2 a.2)]
      right
      simp only [not_forall, not_le] at h2
      obtain ⟨w, hw, hlt⟩ := h2
      exact List.any_eq_true.2 ⟨w, hw, by simpa using hlt⟩

/-- A strike fired touches neither the sequencer nor the count of records. -/
theorem fireStrike_keeps (e : Strike) (s : State) :
    (fireStrike e s).csq = s.csq ∧ (fireStrike e s).bel.nextHour = s.bel.nextHour := by
  unfold fireStrike
  split
  · exact ⟨rfl, rfl⟩
  · split
    · simp; exact ⟨rfl, rfl⟩
    · split
      · simp; exact ⟨rfl, rfl⟩
      · exact ⟨rfl, rfl⟩

/-- Nor does the arbiter. -/
theorem arbitrate_keeps : ∀ (n : Nat) (s : State), (arbitrate n s).csq = s.csq ∧ (arbitrate n s).bel.nextHour =
    s.bel.nextHour := by
  intro n
  induction n with
  | zero => intro s; exact ⟨rfl, rfl⟩
  | succ n ih =>
    intro s
    rw [arbitrate]
    split
    · split
      · rw [(ih _).1, (ih _).2]; exact fireStrike_keeps _ _
      · exact ⟨rfl, rfl⟩
    · exact ⟨rfl, rfl⟩

/-- R92: a wake-up taken changes nothing of the Cue Sequencer but the wake-ups asked for. -/
theorem takeWakeUp_csq (id : Nat) (onset : Int) (s : State) :
    (takeWakeUp id onset s).csq = { s.csq with wakeups := (takeWakeUp id onset s).csq.wakeups } := by
  unfold takeWakeUp
  split
  · rfl
  · dsimp only
    split
    · rw [takeStrike_csq]; rfl
    · unfold askWakeUp
      split
      · simp only [addSuppressed, State.modFlt, takeStrike_csq]; rfl
      · simp only [State.modBel, State.modCsq, takeStrike_csq]

/-- R70: the wake-ups answered at a part's end change nothing of the Cue Sequencer but the list of wake-ups. -/
theorem lateWakeUps_csq (n : Nat) : ∀ s : State,
    (lateWakeUps n s).csq = { s.csq with wakeups := (lateWakeUps n s).csq.wakeups } := by
  induction n with
  | zero => intro s; rfl
  | succ n ih =>
    intro s
    unfold lateWakeUps
    split
    · rfl
    · rw [ih, answerWakeUp, takeWakeUp_csq]
      rfl

/-- Nor does a strike handed over. -/
theorem takeStrike_keeps (b v : Nat) (o : Int) (s : State) : (takeStrike b v o s).csq = s.csq ∧
    (takeStrike b v o s).bel.nextHour = s.bel.nextHour := by
  unfold takeStrike
  split
  · exact ⟨rfl, rfl⟩
  · simp only []
    split
    · exact ⟨rfl, rfl⟩
    · split
      · simp
      · split
        · simp
        · split
          · rw [runArbiter, (arbitrate_keeps _ _).1, (arbitrate_keeps _ _).2]; exact ⟨rfl, rfl⟩
          · exact ⟨rfl, rfl⟩

/-! ## Exclusions by a GO, the cue memory silent (R49, R166) -/

/-- R49: a GO's exclusions: the set shrinks to the GO's, each other station dropped is recorded. -/
theorem excludePeers_eq (m : Set32) {r : ShowRec} {u : State} (hr : u.she.showRec = some r) :
    excludePeers (setMembers (r.members &&& m) u) (Bits.toList (r.members &&& ~~~m)) =
      ((List.range 32).filter fun n => Bits.mem r.members n && !Bits.mem m n && n != ownNo u).foldl
        (fun v n => raiseFault .gateExcludedPeer n v)
        { u with she := { u.she with showRec := some { r with members := r.members &&& m } } } := by
  have hfold : ∀ (l : List Nat) (v : State), ownNo v = ownNo u → excludePeers v l =
      (l.filter fun n => n != ownNo u).foldl (fun v n => raiseFault .gateExcludedPeer n v) v := by
    intro l
    induction l with
    | nil => intro v _; rfl
    | cons a l ih =>
      intro v hv
      simp only [excludePeers, List.foldl_cons, List.filter_cons]
      by_cases h : a = ownNo u
      · rw [if_pos (by rw [hv]; exact h), if_neg (by simp [h])]
        exact ih v hv
      · rw [if_neg (by rw [hv]; exact h), if_pos (by simp [h])]
        exact ih _ (by simp only [ownNo, raiseFault_iml]; exact hv)
  rw [hfold _ (setMembers (r.members &&& m) u) rfl]
  congr 1
  · simp only [setMembers, State.modShe, hr, Option.map_some]
  · simp only [Bits.toList, List.filter_filter]
    apply List.filter_congr
    intro n hn
    simp only [List.mem_range] at hn
    simp only [Bits.mem, BitVec.getLsbD_and, BitVec.getLsbD_not, hn, decide_true, Bool.true_and]
    rw [Bool.and_comm]

/-- R49: what the records of the exclusions leave. -/
theorem excluded_keeps : ∀ (l : List Nat) (v : State),
    let y := l.foldl (fun v n => raiseFault .gateExcludedPeer n v) v
    y.zon = v.zon ∧ y.gtu = v.gtu ∧ y.now = v.now
  | [], _ => ⟨rfl, rfl, rfl⟩
  | a :: l, v => by simpa using excluded_keeps l (raiseFault .gateExcludedPeer a v)

/-- R166: the cue memory silent in a show, at a station with no figure. -/
theorem stopUnmuted_eq (u : State) (he : u.she.engine ∈ [Engine.arming, .gateWait, .running])
    (hs : u.iml.station = .inService) (hf : ∀ f, figRec u f = none) (hq : u.bus.queue.length < 6) :
    stopUnmuted u = withdrawnFrom .stopped { raiseFault .imageUnreadable 0 u with
      iml := { u.iml with station := .stopped, muted := false } } := by
  have hv : ((raiseFault .imageUnreadable 0 u).modIml fun i => { i with station := .stopped, muted := false })
      = { raiseFault .imageUnreadable 0 u with iml := { u.iml with station := .stopped, muted := false } } := by
    simp only [State.modIml, raiseFault_iml]
  unfold stopUnmuted engineStops
  rw [if_neg (by rw [hs]; simp), hv]
  have ht : talkSlot { raiseFault .imageUnreadable 0 u with
      iml := { u.iml with station := .stopped, muted := false } } = none := by
    unfold talkSlot
    simp only [raiseFault_she]
    simp only [List.mem_cons, List.not_mem_nil, or_false] at he
    rcases he with h | h | h <;> rw [h]
  rw [ht]
  simp only
  refine withdrawShow_eq .stopped _ ?_ ?_ ?_ ?_
  · simp only [raiseFault_she]; exact he
  · exact .inr ⟨rfl, rfl⟩
  · intro f; simp only [figRec, raiseFault_fig]; exact hf f
  · exact lt_of_le_of_lt (raiseFault_queue_length _ _ u) (by omega)

/-! ## Zones, figures and outputs (R105, R131, R133) -/

/-- R131: a figure without a request withdraws none. -/
theorem withdrawRequest_idle (f : Nat) (s : State) (h : ∀ r ∈ s.zon.reqs, r.figure ≠ f) : withdrawRequest f s =
    s := by
  unfold withdrawRequest
  have : requestOf s f = none := by
    simp only [requestOf, List.find?_eq_none]
    intro r hr; simpa using h r hr
  rw [this]

/-- R105: zones released by a station that sends, no reassert waiting. -/
theorem releaseAsk_eq (f : Nat) (zones : List Nat) (s : State) (hs : Sends s) (hq : s.bus.queue.length < 8)
    (hr : ∀ g ∈ s.bus.queue, ∀ z, g.content ≠ .claim true z) :
    releaseAsk f zones s = { s with
      zon := { s.zon with view := s.zon.view.mapIdx fun z e =>
        if z ∈ zones.filter (heldFor s f) then .held (ownNo s) none else e }
      bus := if zones.filter (heldFor s f) = [] then s.bus
        else s.bus.queued (.release (Bits.ofList 64 (zones.filter (heldFor s f)))) } := by
  unfold releaseAsk
  by_cases hz : zones.filter (heldFor s f) = []
  · simp only [hz, if_true, List.not_mem_nil, if_false]
    have : s.zon.view.mapIdx (fun _ e => e) = s.zon.view := by
      apply List.ext_getElem <;> simp
    rw [this]
  · simp only [hz, if_false]
    have hp : ∀ v : State, v.bus.queue = s.bus.queue → pruneReasserts v = v := by
      intro v hv
      have hb : v.bus.queue.filter (fun g => !staleReassert v g.content || v.bus.current == some g.id) =
          v.bus.queue := ?_
      · show ({ v with bus := { v.bus with queue := v.bus.queue.filter (fun g => !staleReassert v g.content ||
                                  v.bus.current == some g.id) } } : State) = v
        rw [hb]
      rw [List.filter_eq_self]
      intro g hg
      have : staleReassert v g.content = false := by
        have := hr g (hv ▸ hg)
        cases hc : g.content <;> try rfl
        rename_i b z
        cases b
        · rfl
        · exact absurd hc (this z)
      simp [this]
    rw [hp (mapView (fun z e => if z ∈ zones.filter (heldFor s f) then .held (ownNo s) none else e) s) rfl]
    have hm : isMuted s = false := sends_not_muted hs
    rw [if_neg (by rw [hm]; simp)]
    rw [queueFrame_room _ (s := mapView _ s) hq]
    rfl

/-- Some configured bell has a property. -/
theorem any_bellNumbers_iff (s : State) (p : Nat → Bool) : (bellNumbers s).any p = true ↔ ∃ b < 13, ∃ c,
    bellRec s b = some c ∧ p b = true := by
  simp only [bellNumbers, List.any_eq_true, List.mem_filter, List.mem_range]
  constructor
  · rintro ⟨b, ⟨h1, h2⟩, h3⟩
    obtain ⟨c, hc⟩ := Option.isSome_iff_exists.1 h2
    exact ⟨b, h1, c, hc, h3⟩
  · rintro ⟨b, h1, c, hc, h3⟩
    exact ⟨b, ⟨h1, by simp [hc]⟩, h3⟩

/-- Some configured figure has a property. -/
theorem any_figNumbers_iff (s : State) (p : Nat → Bool) : (figNumbers s).any p = true ↔ ∃ b < 7, ∃ c, figRec s b =
    some c ∧ p b = true := by
  simp only [figNumbers, List.any_eq_true, List.mem_filter, List.mem_range]
  constructor
  · rintro ⟨b, ⟨h1, h2⟩, h3⟩
    obtain ⟨c, hc⟩ := Option.isSome_iff_exists.1 h2
    exact ⟨b, h1, c, hc, h3⟩
  · rintro ⟨b, h1, c, hc, h3⟩
    exact ⟨b, ⟨h1, by simp [hc]⟩, h3⟩

/-! ## The pointers while the beat clock stands (R57, R58, R62, R68) -/

/-- The play pointer stays at what it rests at. -/
theorem playMove_rests {w : State} (hw : PlayRests w w.csq.play) (hwait : w.csq.play.waiting = none) :
    playMove w = none := by
  unfold playMove
  rcases hw with h | h | ⟨p, q, h, hv, h1, h3, h7⟩
  · simp [h]
  · simp [h]
  · simp only [h, hv]
    rw [if_neg (by simp), if_neg (by simp [isStrikeKind, h1, h3]; simpa using h7), if_neg (by simp [hwait])]

/-- The lead pointer stays at what it rests at. -/
theorem leadMove_rests {w : State} (hr : w.csq.running = false) (hw : LeadRests w w.csq.lead) : leadMove w = none := by
  unfold leadMove
  rcases hw with h | h | ⟨p, q, h, hv, h1⟩
  · simp [h]
  · simp [h]
  · simp only [h, hv]
    rw [if_neg (by simp), if_neg (by rcases h1 with h1 | h1 <;> simp [isStrikeKind, h1]), if_pos hr]

/-- No slot is left (R61). -/
theorem leaveSlots_none {w : State} (hw : NoSlotLeft w w.csq.play) (n : Nat) : leaveSlots n w = w := by
  cases n with
  | zero => rfl
  | succ n =>
    have key : ∀ sl ∈ [w.csq.slotA, w.csq.slotB], slotLeft w sl = false := by
      intro sl hsl
      rcases hw sl hsl with h | h
      · simp [slotLeft, h]
      · have : ¬ sl.item < min w.csq.play.item w.csq.lead.item := not_lt.2 h
        simp [slotLeft, trailingItem]; intro _ h5; omega
    simp [leaveSlots, key]

/-- A cursor past its cue lies in its item or a later one (R60). -/
theorem step_item (ps : List Part) (prev : Option Nat) (c : Cursor) : c.item ≤ (c.step ps prev).item := by
  unfold Cursor.step Cursor.moveTo
  cases c.pos with
  | none => simp
  | some p => dsimp only; repeat (first | split | omega | simp)

/-- A cursor past a BAD block lies in its item or a later one (R62). -/
theorem skipItem_item (ps : List Part) (c : Cursor) : c.item ≤ (c.skipItem ps).item := by
  unfold Cursor.skipItem Cursor.moveTo
  cases c.pos with
  | none => simp
  | some p => dsimp only; repeat (first | split | omega | simp)

end Sys2Proof.Machine
end

