-- ==== Sys2Proof/Laws/Drives.lean ====
section
/-! SUPPORT. What ends a figure's drive leaves (R108, R109, R112), and what the loss of an own claim does (R119, R123,
R126). -/

namespace Sys2Proof.Machine

/-! ## Drives that break (R108, R109, R112) -/

/-- The loss of a frame owes no trial at once (R121). -/
theorem onLoss_rest (f : TxFrame) (s : State) :
    (onLoss f s).zon.trialDue = s.zon.trialDue ∧ (onLoss f s).zon.granted = s.zon.granted := by
  unfold onLoss
  split
  · unfold callLost; repeat' split
    all_goals simp [enterIdle, State.modShe, State.modFig]
  · unfold menuLost; repeat' split
    all_goals simp [enterIdle, State.modShe, State.modFig]
  · unfold agreeLost; repeat' split
    all_goals simp [writeLastSlot, enterIdle, State.modShe, State.modFig]
    split <;> simp [State.modSck]
  · unfold readyLost; repeat' split
    all_goals exact ⟨rfl, rfl⟩
  · unfold goLost; repeat' split
    all_goals exact ⟨rfl, rfl⟩
  · exact ⟨rfl, rfl⟩
  · exact ⟨rfl, rfl⟩
  · split <;> exact ⟨rfl, rfl⟩
  all_goals exact ⟨rfl, rfl⟩

/-- Nor does a frame queued. -/
theorem queueFrame_rest (c : Content) (s : State) :
    (queueFrame c s).zon.trialDue = s.zon.trialDue ∧ (queueFrame c s).zon.granted = s.zon.granted := by
  simp only [queueFrame]
  split
  · exact ⟨rfl, rfl⟩
  · rw [raiseFault_zon]
    exact onLoss_rest _ _

/-- Nor the readiness check. -/
theorem gateCheck_rest (s : State) :
    (gateCheck s).zon.trialDue = s.zon.trialDue ∧ (gateCheck s).zon.granted = s.zon.granted := by
  unfold gateCheck
  split
  · split
    · exact queueFrame_rest _ _
    · exact ⟨rfl, rfl⟩
  · exact ⟨rfl, rfl⟩

/-- Nor a broken drive. -/
theorem driveBreaks_rest (c : FaultCode) (f t : Nat) {s : State} (hz : ZonesAtRest s) :
    ZonesAtRest (driveBreaks c f t s) := by
  unfold driveBreaks
  simp only
  split
  · rw [ZonesAtRest, raiseFault_zon]; exact hz
  · split
    · rw [ZonesAtRest, (gateCheck_rest _).1, (gateCheck_rest _).2, raiseFault_zon]; exact hz
    · rw [ZonesAtRest, raiseFault_zon]; exact hz

/-- A command whose meaning owes no trial. -/
theorem zoneEvent_atRest {t : Nat} {s : State} (hl : Live t s) (f : State → State) {v : State}
    (hv : f { s with now := t } = v) (hz : ZonesAtRest v) : zoneEvent t f s = .next v := by
  rw [zoneEvent_rest hl f (by rw [hv]; exact hz), hv]

/-- R108, R109, R112: the end of a drive by a jam or an overtravel. -/
theorem driveBreaks_eq (c : FaultCode) {f : Nat} {s : State} (hf : f < s.fig.run.length) :
    ((figRun s f).state = .moving → runJammed c f s = driveBreaks c f s.now s)
    ∧ ((figRun s f).state = .homing → failHoming f s = driveBreaks c f s.now s) := by
  constructor
  · intro h
    simp only [runJammed, motorOff, modFigRun_mod, driveBreaks, h]
    rw [modFigRun_put]
    obtain ⟨x, hx⟩ : ∃ x : FigRun, x = { (FigRun.off s.now (figRun s f)) with
        run := none, state := .jammed, jamWait := .owed } := ⟨_, rfl⟩
    rw [← hx]
    have hxf : figRun (raiseFault c f { s with fig := { s.fig with run := s.fig.run.set f x } }) f = x := by
      simp [figRun, List.getD_eq_getElem?_getD, hf]
    have hsm : x.showMove = (figRun s f).showMove := by rw [hx]; rfl
    have hy : ({ (FigRun.halted s.now (figRun s f)) with
        state := .jammed, jamWait := .owed, showMove := false } : FigRun) = { x with showMove := false } := by
      rw [hx]; rfl
    rw [hy]
    have hcommute : modFigRun f (fun r => { r with showMove := false })
        (raiseFault c f { s with fig := { s.fig with run := s.fig.run.set f x } })
        = raiseFault c f { s with fig := { s.fig with run := s.fig.run.set f { x with showMove := false } } } := by
      rw [modFigRun_put, hxf, raiseFault_fig]
      simp only [List.set_set]
      exact (raiseFault_setFig c f { s with fig := { s.fig with run := s.fig.run.set f x } } _).symm
    simp only [endMove, hxf]
    rw [hcommute, hsm]
    by_cases h2 : (figRun s f).showMove = true
    · simp [h2]
    · simp only [h2]
      have : ({ x with showMove := false } : FigRun) = x := by
        rw [← hsm] at h2
        rcases x with ⟨⟩; simp at h2; simp [h2]
      rw [this]; simp
  · intro h
    simp only [failHoming, motorOff, modFigRun_mod, driveBreaks, h]
    rw [modFigRun_put]
    rfl

/-- R108: an overtravel of a figure that is driven. -/
theorem overtravel_eq {f : Nat} {s : State} (hs : (figRun s f).state ∈ [.moving, .homing]) :
    overtravel f s = driveBreaks .overtravel f s.now s := by
  have hf : f < s.fig.run.length := fig_range (by intro h; rw [h] at hs; simp [FigRun.reset] at hs)
  simp only [List.mem_cons, List.not_mem_nil, or_false] at hs
  unfold overtravel
  rcases hs with h | h
  · rw [h]; exact (driveBreaks_eq _ hf).1 h
  · rw [h]; exact (driveBreaks_eq _ hf).2 h

/-- What a broken drive leaves depends on the figure before only up to its motor, timers and run. -/
theorem driveBreaks_halted (c : FaultCode) {f t : Nat} {s : State} (hf : f < s.fig.run.length) {x y : FigRun}
    (h1 : x.halted t = y.halted t) :
    driveBreaks c f t { s with fig := { s.fig with run := s.fig.run.set f x } }
      = driveBreaks c f t { s with fig := { s.fig with run := s.fig.run.set f y } } := by
  have hx : ∀ x, figRun { s with fig := { s.fig with run := s.fig.run.set f x } } f = x := by
    intro x; simp [figRun, List.getD_eq_getElem?_getD, hf]
  have e1 : x.state = y.state := by have := congrArg FigRun.state h1; exact this
  have e2 : x.showMove = y.showMove := by have := congrArg FigRun.showMove h1; exact this
  simp only [driveBreaks, hx, e1, e2, h1, List.set_set]

/-! ## Own claims lost (R119, R123, R126) -/

/-- A zone of a set is a number below 64. -/
theorem mem_lt {zones : ZoneSet} {z : Nat} (h : Bits.mem zones z = true) : z < 64 := by
  by_contra hc
  simp [Bits.mem, BitVec.getLsbD_of_ge _ _ (Nat.le_of_not_lt hc)] at h


/-- R119: the request of the one claim lost goes to the head of the list. -/
theorem backToHead_eq (frames : List Nat) (g : Nat) (hf : frames ≠ []) (ha : ∀ k ∈ frames, k = g) (h : State) :
    requestsToHead (fun k => frames.contains k) h =
      { h with zon := { h.zon with reqs := backToHead g h.zon.reqs } } := by
  have hc : ∀ k, frames.contains k = (k == g) := by
    intro k
    by_cases hk : k = g
    · subst hk
      obtain ⟨x, hx⟩ := List.exists_mem_of_ne_nil _ hf
      have := ha x hx
      subst this
      simpa using hx
    · have : ¬ k ∈ frames := fun a => hk (ha k a)
      simp [this, hk]
  have hfun : (fun r : ZoneReq => match r.state with
      | .waiting => false
      | .claiming frame => frames.contains frame) = fun r => r.state == .claiming g := by
    funext r
    cases hr : r.state with
    | waiting => rfl
    | claiming k =>
      simp only [hc]
      by_cases hk : k = g
      · subst hk; simp
      · have : (k == g) = false := by simpa using hk
        rw [this]; symm
        simpa using hk
  simp only [requestsToHead, State.modZon, backToHead]
  exact congrArg (fun p : ZoneReq → Bool => ({ h with zon := { h.zon with
    reqs := (h.zon.reqs.filter p).map (fun r => { r with state := .waiting })
      ++ h.zon.reqs.filter fun r => !p r } } : State)) hfun

/-- A frame removed twice. -/
theorem removeFrame_idem (g : Nat) (s : State) : removeFrame g (removeFrame g s) = removeFrame g s := by
  unfold removeFrame
  by_cases h : inTransmission s g = true
  · simp [h]
  · simp only [h]
    have : inTransmission (s.modBus fun b => { b with queue := b.queue.filter (fun f => f.id != g) }) g =
        inTransmission s g := rfl
    simp only [Bool.false_eq_true, if_false, this, h]
    simp [State.modBus]

/-- The CLAIM of the one claim lost removed. -/
theorem removeFrame_foldl (frames : List Nat) (g : Nat) (hf : frames ≠ []) (ha : ∀ k ∈ frames, k = g)
    (h : State) : frames.foldl (fun s k => removeFrame k s) h = removeFrame g h := by
  have hr : ∀ l : List Nat, (∀ k ∈ l, k = g) →
      l.foldl (fun s k => removeFrame k s) (removeFrame g h) = removeFrame g h := by
    intro l
    induction l with
    | nil => intro _; rfl
    | cons a l ih =>
      intro hl
      rw [List.foldl_cons, hl a (by simp), removeFrame_idem]
      exact ih fun k hk => hl k (by simp [hk])
  cases frames with
  | nil => exact absurd rfl hf
  | cons a l =>
    rw [List.foldl_cons, ha a (by simp)]
    exact hr l fun k hk => ha k (by simp [hk])

/-- R123, R126: one own claim lost. -/
theorem loseOwnClaims_one (frames : List Nat) (g : Nat) (hf : frames ≠ []) (ha : ∀ k ∈ frames, k = g)
    (h : State) : loseOwnClaims frames h =
      { removeFrame g h with zon := { h.zon with reqs := backToHead g h.zon.reqs } } := by
  unfold loseOwnClaims
  rw [removeFrame_foldl frames g hf ha, backToHead_eq frames g hf ha]
  have : (removeFrame g h).zon = h.zon := by unfold removeFrame; split <;> rfl
  rw [this]

/-- Two rising lists with the same members. -/
theorem eq_of_sorted : ∀ (l m : List Nat), l.Pairwise (· < ·) → m.Pairwise (· < ·) →
    (∀ x, x ∈ l ↔ x ∈ m) → l = m := by
  intro l m h1 h2 h
  have : l.Perm m := by
    rw [List.perm_ext_iff_of_nodup (h1.imp (fun h => Nat.ne_of_lt h)) (h2.imp (fun h => Nat.ne_of_lt h))]
    exact h
  exact this.eq_of_pairwise (fun a b _ _ h1 h2 => absurd (Nat.lt_trans h1 h2) (Nat.lt_irrefl _)) h1 h2

end Sys2Proof.Machine
end

