-- ==== Sys2Proof/Laws/Keeps.lean ====
section
/-! SUPPORT. What every operation keeps: the bounds of `Bounded`, the moment and the waiting commands. One lemma an
operation, cited by those of the operations over it. -/

namespace Sys2Proof.Machine

/-- `s` comes from `s0` by operations: the bounds, if they held, hold still, the moment is the same, and so are the
commands that wait. -/
structure Keeps (s0 s : State) : Prop where
  bounds : Bounded s0 → Bounded s
  now : s.now = s0.now
  pending : s.pending = s0.pending

variable {s0 s : State}

/-! ## Updates -/

/-- A state keeps itself. -/
theorem Keeps.refl (s : State) : Keeps s s := ⟨id, rfl, rfl⟩

/-- The bounds rest on the grade, the fault unit, the Bus Interface and the stray count. -/
theorem Bounded.congr {t : State} (h : Bounded s) (h1 : t.sck.grade = s.sck.grade) (h2 : t.flt = s.flt)
    (h3 : t.bus = s.bus) (h4 : t.gtu.stray = s.gtu.stray) : Bounded t :=
  ⟨h1 ▸ h.grade, h2 ▸ h.faults, h2 ▸ h.advisory, h2 ▸ h.suppressed, h2 ▸ h.moveSkipped, h3 ▸ h.rxBroken,
    h3 ▸ h.rxCheck, h3 ▸ h.txCollision, h4 ▸ h.stray, h3 ▸ h.queue⟩

/-- The Bus Interface changed, its counters and its queue within their bounds. -/
theorem Bounded.bus {t : State} (h : Bounded s) (h1 : t.sck.grade = s.sck.grade) (h2 : t.flt = s.flt)
    (h4 : t.gtu.stray = s.gtu.stray) (h5 : t.bus.rxBroken ≤ 255) (h6 : t.bus.rxCheck ≤ 255)
    (h7 : t.bus.txCollision ≤ 255) (h8 : t.bus.queue.length ≤ 8) : Bounded t :=
  ⟨h1 ▸ h.grade, h2 ▸ h.faults, h2 ▸ h.advisory, h2 ▸ h.suppressed, h2 ▸ h.moveSkipped, h5, h6, h7,
    h4 ▸ h.stray, h8⟩

/-- A further operation that keeps the bounds, the moment and the queue. -/
theorem Keeps.then {u : State} (h : Keeps s0 s) (hb : Bounded s → Bounded u) (hn : u.now = s.now)
    (hp : u.pending = s.pending) : Keeps s0 u :=
  ⟨fun b => hb (h.bounds b), hn.trans h.now, hp.trans h.pending⟩

/-- A further operation that leaves what the bounds rest on. -/
theorem Keeps.congr {u : State} (h : Keeps s0 s) (h1 : u.sck.grade = s.sck.grade) (h2 : u.flt = s.flt)
    (h3 : u.bus = s.bus) (h4 : u.gtu.stray = s.gtu.stray) (hn : u.now = s.now) (hp : u.pending = s.pending) :
    Keeps s0 u := h.then (fun b => b.congr h1 h2 h3 h4) hn hp

theorem keeps_modIml (h : Keeps s0 s) (f : Iml → Iml) : Keeps s0 (s.modIml f) := h.congr rfl rfl rfl rfl rfl rfl
theorem keeps_modShe (h : Keeps s0 s) (f : She → She) : Keeps s0 (s.modShe f) := h.congr rfl rfl rfl rfl rfl rfl
theorem keeps_modCsq (h : Keeps s0 s) (f : Csq → Csq) : Keeps s0 (s.modCsq f) := h.congr rfl rfl rfl rfl rfl rfl
theorem keeps_modBel (h : Keeps s0 s) (f : Bel → Bel) : Keeps s0 (s.modBel f) := h.congr rfl rfl rfl rfl rfl rfl
theorem keeps_modFig (h : Keeps s0 s) (f : Fig → Fig) : Keeps s0 (s.modFig f) := h.congr rfl rfl rfl rfl rfl rfl
theorem keeps_modZon (h : Keeps s0 s) (f : Zon → Zon) : Keeps s0 (s.modZon f) := h.congr rfl rfl rfl rfl rfl rfl
theorem keeps_modChr (h : Keeps s0 s) (f : Chr → Chr) : Keeps s0 (s.modChr f) := h.congr rfl rfl rfl rfl rfl rfl
theorem keeps_modGtu (h : Keeps s0 s) (f : Gtu → Gtu) (hf : (f s.gtu).stray = s.gtu.stray) :
    Keeps s0 (s.modGtu f) := h.congr rfl rfl rfl hf rfl rfl
theorem keeps_modSck (h : Keeps s0 s) (f : Sck → Sck) (hf : (f s.sck).grade = s.sck.grade) :
    Keeps s0 (s.modSck f) := h.congr hf rfl rfl rfl rfl rfl

/-- The Station Clock changed, its grade within 1 to 15. -/
theorem keeps_modSck_grade (h : Keeps s0 s) (f : Sck → Sck)
    (hf : Bounded s → 1 ≤ (f s.sck).grade ∧ (f s.sck).grade ≤ 15) : Keeps s0 (s.modSck f) :=
  h.then (fun b => ⟨hf b, b.faults, b.advisory, b.suppressed, b.moveSkipped, b.rxBroken, b.rxCheck, b.txCollision,
    b.stray, b.queue⟩) rfl rfl

/-- The Bus Interface changed, but not its counters, and its queue no longer than it was. -/
theorem keeps_modBus (h : Keeps s0 s) (f : Bus → Bus) (h1 : (f s.bus).rxBroken = s.bus.rxBroken)
    (h2 : (f s.bus).rxCheck = s.bus.rxCheck) (h3 : (f s.bus).txCollision = s.bus.txCollision)
    (h4 : (f s.bus).queue.length ≤ s.bus.queue.length) : Keeps s0 (s.modBus f) :=
  h.then (fun b => b.bus rfl rfl rfl (h1 ▸ b.rxBroken) (h2 ▸ b.rxCheck) (h3 ▸ b.txCollision)
    (Nat.le_trans h4 b.queue)) rfl rfl

/-- A fold keeps what each of its steps keeps. -/
theorem keeps_foldl {α : Type} {f : State → α → State} (hf : ∀ s a, Keeps s0 s → Keeps s0 (f s a)) (l : List α) :
    ∀ {s : State}, Keeps s0 s → Keeps s0 (l.foldl f s) := by
  induction l with
  | nil => exact fun h => h
  | cons a l ih => exact fun h => ih (hf _ _ h)

/-- A condition chooses between two states. -/
theorem keeps_ite {p : Prop} [Decidable p] {t : State} (h1 : Keeps s0 s) (h2 : Keeps s0 t) :
    Keeps s0 (if p then s else t) := by
  split
  · exact h1
  · exact h2

/-! ## Shared operations -/

theorem bump_le (n c : Nat) : bump n c ≤ 255 := Nat.min_le_left _ _

theorem keeps_addSuppressed (h : Keeps s0 s) (n : Nat) : Keeps s0 (addSuppressed n s) :=
  h.then (fun b => ⟨b.grade, b.faults, b.advisory, bump_le _ _, b.moveSkipped, b.rxBroken, b.rxCheck,
      b.txCollision,
    b.stray, b.queue⟩) rfl rfl

theorem keeps_addMoveSkipped (h : Keeps s0 s) : Keeps s0 (addMoveSkipped s) :=
  h.then (fun b => ⟨b.grade, b.faults, b.advisory, b.suppressed, bump_le _ _, b.rxBroken, b.rxCheck, b.txCollision,
    b.stray, b.queue⟩) rfl rfl

theorem countAdvisory_le (c : FaultCode) (cs : List Nat) (h : cs.length = 19 ∧ ∀ x ∈ cs, x ≤ 255) :
    (countAdvisory c cs).length = 19 ∧ ∀ x ∈ countAdvisory c cs, x ≤ 255 := by
  unfold countAdvisory
  split
  · refine ⟨by simpa using h.1, fun x hx => ?_⟩
    rcases List.mem_or_eq_of_mem_set hx with hm | rfl
    · exact h.2 x hm
    · exact bump_le _ _
  · exact h

theorem keeps_recordFault (h : Keeps s0 s) (c : FaultCode) (d : Nat) : Keeps s0 (recordFault c d s) :=
  h.then (fun b => ⟨b.grade, by simp [recordFault, State.modFlt], countAdvisory_le _ _ b.advisory, b.suppressed,
    b.moveSkipped, b.rxBroken, b.rxCheck, b.txCollision, b.stray, b.queue⟩) rfl rfl

theorem keeps_raiseFault (h : Keeps s0 s) (c : FaultCode) (d : Nat) : Keeps s0 (raiseFault c d s) := by
  unfold raiseFault
  dsimp only
  split
  · split
    · rename_i hq
      exact (keeps_recordFault h c d).then (fun b => b.bus rfl rfl rfl b.rxBroken b.rxCheck b.txCollision (by
        simp [appendFrame, State.modBus] at *; omega)) rfl rfl
    · exact keeps_recordFault (keeps_recordFault h _ _) _ _
  · exact keeps_recordFault h _ _

theorem keeps_modGate (h : Keeps s0 s) (f : GateRec → GateRec) : Keeps s0 (modGate f s) :=
  h.congr rfl rfl rfl rfl rfl rfl

theorem keeps_writeLastSlot (h : Keeps s0 s) (a b : Nat) : Keeps s0 (writeLastSlot a b s) := by
  unfold writeLastSlot
  split
  · exact h
  · exact h.congr rfl rfl rfl rfl rfl rfl

theorem keeps_removeFrames (h : Keeps s0 s) (p : Content → Bool) : Keeps s0 (removeFrames p s) :=
  keeps_modBus h _ rfl rfl rfl (List.length_filter_le _ _)

theorem keeps_removeFrame (h : Keeps s0 s) (i : Nat) : Keeps s0 (removeFrame i s) := by
  unfold removeFrame
  split
  · exact h
  · exact keeps_modBus h _ rfl rfl rfl (List.length_filter_le _ _)

theorem queueEntry_length {c : Option Nat} {q : List TxFrame} {f : TxFrame} (h : q.length ≤ 8) :
    (queueEntry c q f).1.length ≤ 8 := by
  unfold queueEntry
  split
  · simp; omega
  · split
    · rename_i v hv
      have hm : v ∈ q := by
        simp only [victim] at hv
        split at hv
        · exact (List.mem_filter.1 (List.mem_filter.1 (List.mem_of_getLast? hv)).1).1
        · cases hv
      have : (q.filter fun g => g.id != v.id).length < q.length := by
        apply List.length_filter_lt_length_iff_exists.2
        exact ⟨v, hm, by simp⟩
      simp; omega
    · exact h

/-- A command's event, where its effect keeps: a next state, at the command's moment or the present one, the
waiting
commands as they were, the bounds kept. -/
theorem keeps_event {f : State → State} (hf : ∀ s0 s, Keeps s0 s → Keeps s0 (f s)) (t : Nat) (s : State) :
    ∃ u, event t f s = .next u ∧ u.now = max s.now t ∧ u.pending = s.pending ∧ (Bounded s → Bounded u) := by
  have ha : Bounded s → Bounded (s.at t) := fun b => b.congr rfl rfl rfl rfl
  have h := hf _ _ (Keeps.refl (s.at t))
  refine ⟨_, rfl, ?_⟩
  split
  · exact ⟨rfl, rfl, ha⟩
  · exact ⟨h.now, h.pending, fun b => h.bounds (ha b)⟩

theorem keeps_setZone (h : Keeps s0 s) (z : Nat) (e : ZoneEntry) :
    Keeps s0 (setZone z e s) := by
  unfold setZone
  try dsimp only
  repeat' with_reducible first | assumption | rfl | apply keeps_modZon

theorem keeps_modFigRun (h : Keeps s0 s) (f : Nat) (g : FigRun → FigRun) :
    Keeps s0 (modFigRun f g s) := by
  unfold modFigRun
  try dsimp only
  repeat' with_reducible first | assumption | rfl | apply keeps_modFig

theorem keeps_modBellRun (h : Keeps s0 s) (b : Nat) (g : BellRun → BellRun) :
    Keeps s0 (modBellRun b g s) := by
  unfold modBellRun
  try dsimp only
  repeat' with_reducible first | assumption | rfl | apply keeps_modBel

theorem keeps_enterIdle (h : Keeps s0 s) :
    Keeps s0 (enterIdle s) := by
  unfold enterIdle
  try dsimp only
  repeat' with_reducible first | assumption | rfl | apply keeps_modShe | apply keeps_modFig

theorem keeps_revertOwnGroup (h : Keeps s0 s) (frame : Nat) :
    Keeps s0 (revertOwnGroup frame s) := by
  unfold revertOwnGroup
  try dsimp only
  repeat' with_reducible first | assumption | rfl | apply keeps_modZon

theorem keeps_requestToHead (h : Keeps s0 s) (frame : Nat) :
    Keeps s0 (requestToHead frame s) := by
  unfold requestToHead
  try dsimp only
  repeat' with_reducible first | assumption | rfl | apply keeps_modZon

theorem keeps_callLost (h : Keeps s0 s) (frame : Nat) :
    Keeps s0 (callLost frame s) := by
  unfold callLost
  try dsimp only
  repeat' with_reducible first | assumption | rfl | apply keeps_raiseFault | apply keeps_enterIdle | split

theorem keeps_menuLost (h : Keeps s0 s) (frame : Nat) :
    Keeps s0 (menuLost frame s) := by
  unfold menuLost
  try dsimp only
  repeat' with_reducible first | assumption | rfl | apply keeps_raiseFault | apply keeps_enterIdle | split

theorem keeps_agreeLost (h : Keeps s0 s) (frame : Nat) :
    Keeps s0 (agreeLost frame s) := by
  unfold agreeLost
  try dsimp only
  repeat' with_reducible first
    | assumption | rfl | apply keeps_raiseFault | apply keeps_writeLastSlot | apply keeps_enterIdle | split

theorem keeps_readyLost (h : Keeps s0 s) (frame : Nat) :
    Keeps s0 (readyLost frame s) := by
  unfold readyLost
  try dsimp only
  repeat' with_reducible first | assumption | rfl | apply keeps_modGtu | split

theorem keeps_goLost (h : Keeps s0 s) (frame : Nat) :
    Keeps s0 (goLost frame s) := by
  unfold goLost
  try dsimp only
  repeat' with_reducible first | assumption | rfl | apply keeps_modGtu | split

theorem keeps_claimLost (h : Keeps s0 s) (frame : Nat) :
    Keeps s0 (claimLost frame s) := by
  unfold claimLost
  try dsimp only
  repeat' with_reducible first
    | assumption | rfl | apply keeps_requestToHead | apply keeps_revertOwnGroup | apply keeps_modZon

theorem keeps_onLoss (h : Keeps s0 s) (f : TxFrame) :
    Keeps s0 (onLoss f s) := by
  unfold onLoss
  try dsimp only
  repeat' with_reducible first
    | assumption | rfl | apply keeps_callLost | apply keeps_menuLost | apply keeps_agreeLost
    | apply keeps_readyLost | apply keeps_goLost | apply keeps_claimLost | apply keeps_modZon
    | apply keeps_modIml | split

theorem keeps_queueFrame (h : Keeps s0 s) (c : Content) : Keeps s0 (queueFrame c s) := by
  have h1 : Keeps s0 (s.modBus fun b =>
      { b with queue := (queueEntry s.bus.current s.bus.queue ⟨s.bus.nextId, c⟩).1, nextId := b.nextId + 1 }) :=
    h.then (fun b => b.bus rfl rfl rfl b.rxBroken b.rxCheck b.txCollision (queueEntry_length b.queue)) rfl rfl
  unfold queueFrame
  dsimp only
  split
  · exact h1
  · exact keeps_raiseFault (keeps_onLoss h1 _) _ _

theorem keeps_queueTime (h : Keeps s0 s) :
    Keeps s0 (queueTime s) := by
  unfold queueTime
  try dsimp only
  repeat' with_reducible first | assumption | rfl | apply keeps_queueFrame | split

theorem keeps_queueStatus (h : Keeps s0 s) (page : Nat) (contents : List Byte) :
    Keeps s0 (queueStatus page contents s) := by
  unfold queueStatus
  split
  · exact keeps_queueFrame h _
  · split
    · exact h
    · exact keeps_modBus h _ rfl rfl rfl (by simp)

theorem keeps_setEngine (h : Keeps s0 s) (e : Engine) :
    Keeps s0 (setEngine e s) := by
  unfold setEngine
  try dsimp only
  repeat' with_reducible first | assumption | rfl | apply keeps_modShe

theorem keeps_openGate0 (h : Keeps s0 s) :
    Keeps s0 (openGate0 s) := by
  unfold openGate0
  try dsimp only
  repeat' with_reducible first | assumption | rfl | apply keeps_modGtu

theorem keeps_queueReady (h : Keeps s0 s) (g : GateRec) :
    Keeps s0 (queueReady g s) := by
  unfold queueReady
  try dsimp only
  repeat' with_reducible first | assumption | rfl | apply keeps_queueFrame | apply keeps_modGate

theorem keeps_becomeReady (h : Keeps s0 s) (g : GateRec) :
    Keeps s0 (becomeReady g s) := by
  unfold becomeReady
  try dsimp only
  repeat' with_reducible first
    | assumption | rfl | apply keeps_queueReady | apply keeps_setEngine | apply keeps_modGate

theorem keeps_gateCheck (h : Keeps s0 s) :
    Keeps s0 (gateCheck s) := by
  unfold gateCheck
  try dsimp only
  repeat' with_reducible first | assumption | rfl | apply keeps_becomeReady | split

theorem keeps_releaseGate (h : Keeps s0 s) (g : GateRec) :
    Keeps s0 (releaseGate g s) := by
  unfold releaseGate
  try dsimp only
  repeat' with_reducible first
    | assumption | rfl | apply keeps_removeFrame | apply keeps_readyLost | apply keeps_modGtu | split

theorem keeps_checkRelease (h : Keeps s0 s) :
    Keeps s0 (checkRelease s) := by
  unfold checkRelease
  try dsimp only
  repeat' with_reducible first | assumption | rfl | apply keeps_releaseGate | split

theorem keeps_recomputeGate (h : Keeps s0 s) :
    Keeps s0 (recomputeGate s) := by
  unfold recomputeGate
  try dsimp only
  repeat' with_reducible first | assumption | rfl | apply keeps_modGate | split

theorem keeps_takeReady (h : Keeps s0 s) (src slot gate : Nat) : Keeps s0 (takeReady src slot gate s) := by
  unfold takeReady
  split
  · exact h
  · split
    · split
      · split
        · exact h
        · exact keeps_checkRelease (keeps_recomputeGate (keeps_modGate h _))
      · exact h.then (fun b => ⟨b.grade, b.faults, b.advisory, b.suppressed, b.moveSkipped, b.rxBroken, b.rxCheck,
          b.txCollision, bump_le _ _, b.queue⟩) rfl rfl
    · exact h

theorem keeps_readyReadBack (h : Keeps s0 s) (id : Nat) :
    Keeps s0 (readyReadBack id s) := by
  unfold readyReadBack
  try dsimp only
  repeat' with_reducible first | assumption | rfl | apply keeps_checkRelease | apply keeps_modGtu | split

theorem keeps_gateTimerExpires (h : Keeps s0 s) (g : GateRec) :
    Keeps s0 (gateTimerExpires g s) := by
  unfold gateTimerExpires
  try dsimp only
  repeat' with_reducible first | assumption | rfl | apply keeps_queueFrame | apply keeps_modGate

theorem keeps_setMembers (h : Keeps s0 s) (m : Set32) :
    Keeps s0 (setMembers m s) := by
  unfold setMembers
  try dsimp only
  repeat' with_reducible first | assumption | rfl | apply keeps_modShe

theorem keeps_excludePeers (h : Keeps s0 s) (removed : List Nat) :
    Keeps s0 (excludePeers s removed) := by
  unfold excludePeers
  try dsimp only
  repeat' with_reducible first | assumption | rfl | apply keeps_raiseFault | apply keeps_foldl | split | intro _

theorem keeps_removeMember (h : Keeps s0 s) (n : Nat) :
    Keeps s0 (removeMember n s) := by
  unfold removeMember
  try dsimp only
  repeat' with_reducible first
    | assumption | rfl | apply keeps_checkRelease | apply keeps_recomputeGate | apply keeps_setMembers | split

theorem keeps_clearGate (h : Keeps s0 s) :
    Keeps s0 (clearGate s) := by
  unfold clearGate
  try dsimp only
  repeat' with_reducible first | assumption | rfl | apply keeps_removeFrames | apply keeps_modGtu

theorem keeps_mapView (h : Keeps s0 s) (g : Nat → ZoneEntry → ZoneEntry) :
    Keeps s0 (mapView g s) := by
  unfold mapView
  try dsimp only
  repeat' with_reducible first | assumption | rfl | apply keeps_modZon

theorem keeps_oweTrial (h : Keeps s0 s) :
    Keeps s0 (oweTrial s) := by
  unfold oweTrial
  try dsimp only
  repeat' with_reducible first | assumption | rfl | apply keeps_modZon

theorem keeps_oweTrialIf (h : Keeps s0 s) (b : Bool) :
    Keeps s0 (oweTrialIf b s) := by
  unfold oweTrialIf
  try dsimp only
  repeat' with_reducible first | assumption | rfl | apply keeps_oweTrial | split

theorem keeps_pruneReasserts (h : Keeps s0 s) :
    Keeps s0 (pruneReasserts s) := by
  unfold pruneReasserts
  try dsimp only
  repeat' with_reducible first | assumption | rfl | apply keeps_removeFrames

theorem keeps_queueReassert (h : Keeps s0 s) (limited : Bool) (zones : List Nat) :
    Keeps s0 (queueReassert limited zones s) := by
  unfold queueReassert
  try dsimp only
  repeat' with_reducible first | assumption | rfl | apply keeps_queueFrame | apply keeps_modZon | split

theorem keeps_releaseAsk (h : Keeps s0 s) (f : Nat) (zones : List Nat) :
    Keeps s0 (releaseAsk f zones s) := by
  unfold releaseAsk
  try dsimp only
  repeat' with_reducible first
    | assumption | rfl | apply keeps_pruneReasserts | apply keeps_mapView | apply keeps_queueFrame | split

theorem keeps_releaseReadBack (h : Keeps s0 s) (zones : ZoneSet) :
    Keeps s0 (releaseReadBack zones s) := by
  unfold releaseReadBack
  try dsimp only
  repeat' with_reducible first | assumption | rfl | apply keeps_oweTrial | apply keeps_mapView

theorem keeps_requeueRelease (h : Keeps s0 s) (zones : ZoneSet) :
    Keeps s0 (requeueRelease s zones) := by
  unfold requeueRelease
  try dsimp only
  repeat' with_reducible first | assumption | rfl | apply keeps_queueFrame | split

theorem keeps_requeueReleases (h : Keeps s0 s) :
    Keeps s0 (requeueReleases s) := by
  unfold requeueReleases
  try dsimp only
  repeat' with_reducible first
    | assumption | rfl | apply keeps_requeueRelease | apply keeps_modZon | apply keeps_foldl | split | intro _

theorem keeps_lapseGroup (h : Keeps s0 s) (frame : Nat) :
    Keeps s0 (lapseGroup frame s) := by
  unfold lapseGroup
  try dsimp only
  repeat' with_reducible first | assumption | rfl | apply keeps_mapView

theorem keeps_dropRequest (h : Keeps s0 s) (f : Nat) :
    Keeps s0 (dropRequest f s) := by
  unfold dropRequest
  try dsimp only
  repeat' with_reducible first | assumption | rfl | apply keeps_modZon

theorem keeps_withdrawRequest (h : Keeps s0 s) (f : Nat) :
    Keeps s0 (withdrawRequest f s) := by
  unfold withdrawRequest
  try dsimp only
  repeat' with_reducible first
    | assumption | rfl | apply keeps_oweTrial | apply keeps_dropRequest | apply keeps_revertOwnGroup
    | apply keeps_removeFrame | apply keeps_lapseGroup | split

theorem keeps_enterRequest (h : Keeps s0 s) (atHead : Bool) (f : Nat) (zones : List Nat) :
    Keeps s0 (enterRequest atHead f zones s) := by
  unfold enterRequest
  try dsimp only
  repeat' with_reducible first
    | assumption | rfl | apply keeps_oweTrial | apply keeps_withdrawRequest | apply keeps_modZon

theorem keeps_requestsToHead (h : Keeps s0 s) (lost : Nat → Bool) :
    Keeps s0 (requestsToHead lost s) := by
  unfold requestsToHead
  try dsimp only
  repeat' with_reducible first | assumption | rfl | apply keeps_modZon

theorem keeps_grantRequest (h : Keeps s0 s) (f : Nat) :
    Keeps s0 (grantRequest f s) := by
  unfold grantRequest
  try dsimp only
  repeat' with_reducible first | assumption | rfl | apply keeps_dropRequest | apply keeps_modZon

theorem keeps_claimZones (h : Keeps s0 s) (r : ZoneReq) :
    Keeps s0 (claimZones r s) := by
  unfold claimZones
  try dsimp only
  repeat' with_reducible first
    | assumption | rfl | apply keeps_queueFrame | apply keeps_mapView | apply keeps_modZon

theorem keeps_tryRequest (h : Keeps s0 s) (f : Nat) :
    Keeps s0 (tryRequest s f) := by
  unfold tryRequest
  try dsimp only
  repeat' with_reducible first | assumption | rfl | apply keeps_grantRequest | apply keeps_claimZones | split

theorem keeps_tryList (h : Keeps s0 s) :
    Keeps s0 (tryList s) := by
  unfold tryList
  try dsimp only
  repeat' with_reducible first
    | assumption | rfl | apply keeps_tryRequest | apply keeps_modZon | apply keeps_foldl | split | intro _

theorem keeps_voidGroups (h : Keeps s0 s) (gs : List (Nat × Nat)) :
    Keeps s0 (voidGroups gs s) := by
  unfold voidGroups
  try dsimp only
  repeat' with_reducible first | assumption | rfl | apply keeps_mapView

theorem keeps_loseOwnClaims (h : Keeps s0 s) (frames : List Nat) :
    Keeps s0 (loseOwnClaims frames s) := by
  unfold loseOwnClaims
  try dsimp only
  repeat' with_reducible first
    | assumption | rfl | apply keeps_requestsToHead | apply keeps_removeFrame | apply keeps_foldl | split
    | intro _

theorem keeps_recordClaim (h : Keeps s0 s) (src group : Nat) (zones : ZoneSet) :
    Keeps s0 (recordClaim src group zones s) := by
  unfold recordClaim
  try dsimp only
  repeat' with_reducible first | assumption | rfl | apply keeps_mapView

theorem keeps_judgeClaim (h : Keeps s0 s) (src group : Nat) (zones : ZoneSet) :
    Keeps s0 (judgeClaim src group zones s) := by
  unfold judgeClaim
  try dsimp only
  repeat' with_reducible first
    | assumption | rfl | apply keeps_queueReassert | apply keeps_recordClaim | apply keeps_oweTrialIf
    | apply keeps_loseOwnClaims | apply keeps_voidGroups | split

theorem keeps_takeClaim (h : Keeps s0 s) (src : Nat) (zones : ZoneSet) :
    Keeps s0 (takeClaim src zones s) := by
  unfold takeClaim
  try dsimp only
  repeat' with_reducible first | assumption | rfl | apply keeps_judgeClaim | split

theorem keeps_claimReadBack (h : Keeps s0 s) (id : Nat) (zones : ZoneSet) :
    Keeps s0 (claimReadBack id zones s) := by
  unfold claimReadBack
  try dsimp only
  repeat' with_reducible first
    | assumption | rfl | apply keeps_mapView | apply keeps_judgeClaim
    | apply keeps_oweTrial | apply keeps_requestsToHead | split

theorem keeps_takeReassert (h : Keeps s0 s) (src : Nat) (zones : ZoneSet) :
    Keeps s0 (takeReassert src zones s) := by
  unfold takeReassert
  try dsimp only
  repeat' with_reducible first
    | assumption | rfl | apply keeps_mapView | apply keeps_pruneReasserts | apply keeps_oweTrialIf
    | apply keeps_loseOwnClaims | apply keeps_voidGroups

theorem keeps_holdGroup (h : Keeps s0 s) (g : Nat) (fig : Option Nat) :
    Keeps s0 (holdGroup g fig s) := by
  unfold holdGroup
  try dsimp only
  repeat' with_reducible first | assumption | rfl | apply keeps_mapView

theorem keeps_ownWindowEnds (h : Keeps s0 s) (g : Nat) :
    Keeps s0 (ownWindowEnds s g) := by
  unfold ownWindowEnds
  try dsimp only
  repeat' with_reducible first
    | assumption | rfl | apply keeps_holdGroup | apply keeps_queueReassert | apply keeps_grantRequest
    | apply keeps_oweTrial | apply keeps_requestsToHead | apply keeps_queueFrame | split

theorem keeps_ownWindowsEnd (h : Keeps s0 s) :
    Keeps s0 (ownWindowsEnd s) := by
  unfold ownWindowsEnd
  try dsimp only
  repeat' with_reducible first
    | assumption | rfl | apply keeps_ownWindowEnds | apply keeps_modZon | apply keeps_foldl | split | intro _

theorem keeps_peerWindowsEnd (h : Keeps s0 s) :
    Keeps s0 (peerWindowsEnd s) := by
  unfold peerWindowsEnd
  try dsimp only
  repeat' with_reducible first | assumption | rfl | apply keeps_mapView

theorem keeps_markDiscard (h : Keeps s0 s) :
    Keeps s0 (markDiscard s) := by
  unfold markDiscard
  try dsimp only
  repeat' with_reducible first | assumption | rfl | apply keeps_modZon

theorem keeps_freeZones (h : Keeps s0 s) (src : Nat) (p : Nat → Bool) :
    Keeps s0 (freeZones src p s) := by
  unfold freeZones
  try dsimp only
  repeat' with_reducible first | assumption | rfl | apply keeps_oweTrialIf | apply keeps_mapView

theorem keeps_takeRelease (h : Keeps s0 s) (src : Nat) (zones : ZoneSet) :
    Keeps s0 (takeRelease src zones s) := by
  unfold takeRelease
  try dsimp only
  repeat' with_reducible first | assumption | rfl | apply keeps_freeZones | split

theorem keeps_freeStation (h : Keeps s0 s) (src : Nat) :
    Keeps s0 (freeStation src s) := by
  unfold freeStation
  try dsimp only
  repeat' with_reducible first | assumption | rfl | apply keeps_oweTrial | apply keeps_freeZones | split

theorem keeps_muteZones (h : Keeps s0 s) :
    Keeps s0 (muteZones s) := by
  unfold muteZones
  try dsimp only
  repeat' with_reducible first
    | assumption | rfl | apply keeps_mapView | apply keeps_removeFrames | apply keeps_modZon

theorem keeps_setDuty (h : Keeps s0 s) (f d : Nat) :
    Keeps s0 (setDuty f d s) := by
  unfold setDuty
  try dsimp only
  repeat' with_reducible first | assumption | rfl | apply keeps_modFigRun

theorem keeps_motorOff (h : Keeps s0 s) (f : Nat) :
    Keeps s0 (motorOff f s) := by
  unfold motorOff
  try dsimp only
  repeat' with_reducible first | assumption | rfl | apply keeps_modFigRun

theorem keeps_endMove (h : Keeps s0 s) (f : Nat) :
    Keeps s0 (endMove f s) := by
  unfold endMove
  try dsimp only
  repeat' with_reducible first | assumption | rfl | apply keeps_gateCheck | apply keeps_modFigRun | split

theorem keeps_runJammed (h : Keeps s0 s) (code : FaultCode) (f : Nat) :
    Keeps s0 (runJammed code f s) := by
  unfold runJammed
  try dsimp only
  repeat' with_reducible first
    | assumption | rfl | apply keeps_endMove | apply keeps_raiseFault | apply keeps_modFigRun
    | apply keeps_motorOff

theorem keeps_failHoming (h : Keeps s0 s) (f : Nat) :
    Keeps s0 (failHoming f s) := by
  unfold failHoming
  try dsimp only
  repeat' with_reducible first
    | assumption | rfl | apply keeps_raiseFault | apply keeps_modFigRun | apply keeps_motorOff

theorem keeps_overtravel (h : Keeps s0 s) (f : Nat) :
    Keeps s0 (overtravel f s) := by
  unfold overtravel
  try dsimp only
  repeat' with_reducible first | assumption | rfl | apply keeps_runJammed | apply keeps_failHoming | split

theorem keeps_applyDuty (h : Keeps s0 s) (f : Nat) :
    Keeps s0 (applyDuty f s) := by
  unfold applyDuty
  try dsimp only
  repeat' with_reducible first | assumption | rfl | apply keeps_setDuty | apply keeps_overtravel | split

theorem keeps_requestRun (h : Keeps s0 s) (atHead : Bool) (f : Nat) (zones : List Nat) :
    Keeps s0 (requestRun atHead f zones s) := by
  unfold requestRun
  try dsimp only
  repeat' with_reducible first | assumption | rfl | apply keeps_modZon | apply keeps_enterRequest | split

theorem keeps_beginPark (h : Keeps s0 s) (f : Nat) (c : FigRec) :
    Keeps s0 (beginPark f c s) := by
  unfold beginPark
  try dsimp only
  repeat' with_reducible first | assumption | rfl | apply keeps_requestRun | apply keeps_modFigRun

theorem keeps_parkCheck (h : Keeps s0 s) (f : Nat) :
    Keeps s0 (parkCheck f s) := by
  unfold parkCheck
  try dsimp only
  repeat' with_reducible first | assumption | rfl | apply keeps_releaseAsk | apply keeps_beginPark | split

theorem keeps_beginHoming (h : Keeps s0 s) (f : Nat) :
    Keeps s0 (beginHoming f s) := by
  unfold beginHoming
  try dsimp only
  repeat' with_reducible first
    | assumption | rfl | apply keeps_requestRun | apply keeps_modFigRun | apply keeps_setDuty | split

theorem keeps_modRun (h : Keeps s0 s) (f : Nat) (g : RunRec → RunRec) :
    Keeps s0 (modRun f g s) := by
  unfold modRun
  try dsimp only
  repeat' with_reducible first | assumption | rfl | apply keeps_modFigRun

theorem keeps_holdFor (h : Keeps s0 s) (f : Nat) (outward : Bool) : Keeps s0 (holdFor f outward s) :=
  keeps_setDuty (keeps_modFigRun (keeps_modRun h _ _) _ _) _ _

theorem keeps_headFor (h : Keeps s0 s) (f : Nat) (outward : Bool) :
    Keeps s0 (headFor f outward s) := by
  unfold headFor
  try dsimp only
  repeat' with_reducible first
    | assumption | rfl | apply keeps_modRun | apply keeps_applyDuty | apply keeps_modFigRun
    | apply keeps_holdFor | split

theorem keeps_releaseIndex (h : Keeps s0 s) (f i : Nat) (r : RunRec) :
    Keeps s0 (releaseIndex f i r s) := by
  unfold releaseIndex
  try dsimp only
  repeat' with_reducible first | assumption | rfl | apply keeps_releaseAsk | apply keeps_modRun

theorem keeps_passWaypoint (h : Keeps s0 s) (f : Nat) (r : RunRec) :
    Keeps s0 (passWaypoint f r s) := by
  unfold passWaypoint
  try dsimp only
  repeat' with_reducible first | assumption | rfl | apply keeps_modRun | apply keeps_releaseIndex

theorem keeps_arrive (h : Keeps s0 s) (f : Nat) (r : RunRec) :
    Keeps s0 (arrive f r s) := by
  unfold arrive
  try dsimp only
  repeat' with_reducible first
    | assumption | rfl | apply keeps_motorOff | apply keeps_releaseIndex | apply keeps_releaseAsk
    | apply keeps_modFigRun | apply keeps_parkCheck | apply keeps_endMove | split

theorem keeps_startLeg (n : Nat) : ∀ {s : State}, Keeps s0 s → ∀ f : Nat, Keeps s0 (startLeg n f s) := by
  induction n with
  | zero => exact fun h _ => h
  | succ n ih =>
    intro s h f
    unfold startLeg
    split
    · exact h
    · split
      · split
        · exact keeps_arrive h _ _
        · exact ih (keeps_passWaypoint h _ _) _
      · exact keeps_headFor h _ _

theorem keeps_headToPark (h : Keeps s0 s) (f : Nat) : Keeps s0 (headToPark f s) := by
  unfold headToPark
  split
  · exact h
  · exact keeps_ite (keeps_arrive h _ _) (keeps_holdFor h _ _)

theorem keeps_homeFound (h : Keeps s0 s) (f : Nat) : Keeps s0 (homeFound f s) :=
  keeps_headToPark (keeps_modFigRun h _ _) _

theorem keeps_seek (h : Keeps s0 s) (f : Nat) :
    Keeps s0 (seek f s) := by
  unfold seek
  try dsimp only
  repeat' with_reducible first | assumption | rfl | apply keeps_homeFound | apply keeps_headFor | split

theorem keeps_figGranted (h : Keeps s0 s) (f : Nat) :
    Keeps s0 (figGranted s f) := by
  unfold figGranted
  try dsimp only
  repeat' with_reducible first
    | assumption | rfl | apply keeps_releaseAsk | apply keeps_startLeg | apply keeps_modFigRun
    | apply keeps_modRun | apply keeps_seek | split

theorem keeps_handGrants (h : Keeps s0 s) :
    Keeps s0 (handGrants s) := by
  unfold handGrants
  try dsimp only
  repeat' with_reducible first
    | assumption | rfl | apply keeps_figGranted | apply keeps_modZon | apply keeps_foldl | split | intro _

theorem keeps_settleZones (n : Nat) : ∀ {s : State}, Keeps s0 s → Keeps s0 (settleZones n s) := by
  induction n with
  | zero => exact fun h => h
  | succ n ih =>
    intro s h
    unfold settleZones
    exact keeps_ite (ih (keeps_handGrants (keeps_ite (keeps_tryList h) h))) h

/-- So a zone command's, with the trials and grants that follow its effect. -/
theorem keeps_zoneEvent {f : State → State} (hf : ∀ s0 s, Keeps s0 s → Keeps s0 (f s)) (t : Nat) (s : State) :
    ∃ u, zoneEvent t f s = .next u ∧ u.now = max s.now t ∧ u.pending = s.pending ∧ (Bounded s → Bounded u) :=
  keeps_event (fun s0 s h => keeps_settleZones trialFuel (hf s0 s h)) t s

theorem keeps_beginMove (h : Keeps s0 s) (f scale : Nat) (waypoints zones : List (Nat × Nat)) :
    Keeps s0 (beginMove f scale waypoints zones s) := by
  unfold beginMove
  try dsimp only
  repeat' with_reducible first | assumption | rfl | apply keeps_requestRun | apply keeps_modFigRun

theorem keeps_takeMove (h : Keeps s0 s) (f path scale : Nat) (mirrored : Bool) :
    Keeps s0 (takeMove f path scale mirrored s) := by
  unfold takeMove
  try dsimp only
  repeat' with_reducible first
    | assumption | rfl | apply keeps_gateCheck | apply keeps_addMoveSkipped | apply keeps_beginMove
    | apply keeps_raiseFault | split

theorem keeps_legProgress (h : Keeps s0 s) (f : Nat) (c : FigRec) (r : RunRec) :
    Keeps s0 (legProgress f c r s) := by
  unfold legProgress
  try dsimp only
  repeat' with_reducible first
    | assumption | rfl | apply keeps_arrive | apply keeps_applyDuty | apply keeps_startLeg
    | apply keeps_passWaypoint | split

theorem keeps_afterEdge (h : Keeps s0 s) (f : Nat) (c : FigRec) :
    Keeps s0 (afterEdge f c s) := by
  unfold afterEdge
  try dsimp only
  repeat' with_reducible first
    | assumption | rfl | apply keeps_legProgress | apply keeps_seek | apply keeps_applyDuty | split

theorem keeps_encoderEdge (h : Keeps s0 s) (f : Nat) :
    Keeps s0 (encoderEdge f s) := by
  unfold encoderEdge
  try dsimp only
  repeat' with_reducible first
    | assumption | rfl | apply keeps_overtravel | apply keeps_afterEdge | apply keeps_modFigRun | split

theorem keeps_limitBecomesActive (h : Keeps s0 s) (f : Nat) :
    Keeps s0 (limitBecomesActive f s) := by
  unfold limitBecomesActive
  try dsimp only
  repeat' with_reducible first | assumption | rfl | apply keeps_overtravel | split

theorem keeps_homeBecomesActive (h : Keeps s0 s) (f : Nat) :
    Keeps s0 (homeBecomesActive f s) := by
  unfold homeBecomesActive
  try dsimp only
  repeat' with_reducible first | assumption | rfl | apply keeps_seek | apply keeps_homeFound | split

theorem keeps_jamExpires (h : Keeps s0 s) (f : Nat) :
    Keeps s0 (jamExpires f s) := by
  unfold jamExpires
  try dsimp only
  repeat' with_reducible first | assumption | rfl | apply keeps_runJammed | apply keeps_failHoming | split

theorem keeps_driveLeg (h : Keeps s0 s) (f : Nat) :
    Keeps s0 (driveLeg f s) := by
  unfold driveLeg
  try dsimp only
  repeat' with_reducible first | assumption | rfl | apply keeps_applyDuty | apply keeps_modFigRun

theorem keeps_jamWaitEnds (h : Keeps s0 s) (f : Nat) :
    Keeps s0 (jamWaitEnds f s) := by
  unfold jamWaitEnds
  try dsimp only
  repeat' with_reducible first | assumption | rfl | apply keeps_modFigRun | apply keeps_beginHoming | split

theorem keeps_figEntersCut (h : Keeps s0 s) (f : Nat) :
    Keeps s0 (figEntersCut s f) := by
  unfold figEntersCut
  try dsimp only
  repeat' with_reducible first
    | assumption | rfl | apply keeps_modFigRun | apply keeps_motorOff | apply keeps_modRun | split

theorem keeps_figLeavesCut (h : Keeps s0 s) (f : Nat) :
    Keeps s0 (figLeavesCut s f) := by
  unfold figLeavesCut
  try dsimp only
  repeat' with_reducible first
    | assumption | rfl | apply keeps_modFigRun | apply keeps_driveLeg | apply keeps_modRun | split

theorem keeps_figSagChange (h : Keeps s0 s) (f : Nat) :
    Keeps s0 (figSagChange s f) := by
  unfold figSagChange
  try dsimp only
  repeat' with_reducible first | assumption | rfl | apply keeps_applyDuty | split

theorem keeps_figLosesZone (h : Keeps s0 s) (f : Nat) :
    Keeps s0 (figLosesZone s f) := by
  unfold figLosesZone
  try dsimp only
  repeat' with_reducible first
    | assumption | rfl | apply keeps_requestRun | apply keeps_modFigRun | apply keeps_motorOff
    | apply keeps_modRun | split

theorem keeps_figWithdraws (h : Keeps s0 s) (f : Nat) :
    Keeps s0 (figWithdraws s f) := by
  unfold figWithdraws
  try dsimp only
  repeat' with_reducible first
    | assumption | rfl | apply keeps_withdrawRequest | apply keeps_releaseAsk | apply keeps_modFigRun
    | apply keeps_beginHoming | split

theorem keeps_cutMotor (h : Keeps s0 s) (f : Nat) :
    Keeps s0 (cutMotor s f) := by
  unfold cutMotor
  try dsimp only
  repeat' with_reducible first | assumption | rfl | apply keeps_setDuty | split

theorem keeps_clearMoves (h : Keeps s0 s) :
    Keeps s0 (clearMoves s) := by
  unfold clearMoves
  try dsimp only
  repeat' with_reducible first | assumption | rfl | apply keeps_modFig

theorem keeps_figsWithdraw (h : Keeps s0 s) :
    Keeps s0 (figsWithdraw s) := by
  unfold figsWithdraw
  try dsimp only
  repeat' with_reducible first
    | assumption | rfl | apply keeps_figWithdraws | apply keeps_cutMotor | apply keeps_clearMoves
    | apply keeps_foldl | split | intro _

theorem keeps_muteFigures (h : Keeps s0 s) :
    Keeps s0 (muteFigures s) := by
  unfold muteFigures
  try dsimp only
  repeat' with_reducible first | assumption | rfl | apply keeps_modFigRun | apply keeps_foldl | split | intro _

theorem keeps_parkChecks (h : Keeps s0 s) :
    Keeps s0 (parkChecks s) := by
  unfold parkChecks
  try dsimp only
  repeat' with_reducible first
    | assumption | rfl | apply keeps_parkCheck | apply keeps_clearMoves | apply keeps_foldl | split | intro _

theorem keeps_dropDampers (h : Keeps s0 s) :
    Keeps s0 (dropDampers s) := by
  unfold dropDampers
  try dsimp only
  repeat' with_reducible first | assumption | rfl | apply keeps_modBel

theorem keeps_takeDamp (h : Keeps s0 s) (b action : Nat) :
    Keeps s0 (takeDamp b action s) := by
  unfold takeDamp
  try dsimp only
  repeat' with_reducible first | assumption | rfl | apply keeps_modBellRun | split

theorem keeps_removeStrike (h : Keeps s0 s) (e : Strike) :
    Keeps s0 (removeStrike e s) := by
  unfold removeStrike
  try dsimp only
  repeat' with_reducible first | assumption | rfl | apply keeps_modBel

theorem keeps_startPulse (h : Keeps s0 s) (c : BellRec) (e : Strike) (w : Nat) :
    Keeps s0 (startPulse c e w s) := by
  unfold startPulse
  try dsimp only
  repeat' with_reducible first | assumption | rfl | apply keeps_modBellRun | apply keeps_removeStrike

theorem keeps_fireStrike (h : Keeps s0 s) (e : Strike) :
    Keeps s0 (fireStrike e s) := by
  unfold fireStrike
  try dsimp only
  repeat' with_reducible first
    | assumption | rfl | apply keeps_removeStrike | apply keeps_raiseFault | apply keeps_startPulse | split

theorem keeps_arbitrate (n : Nat) : ∀ {s : State}, Keeps s0 s → Keeps s0 (arbitrate n s) := by
  induction n with
  | zero => exact fun h => h
  | succ n ih =>
    intro s h
    unfold arbitrate
    split
    · split
      · exact ih (keeps_fireStrike h _)
      · exact h
    · exact h

theorem keeps_runArbiter (h : Keeps s0 s) : Keeps s0 (runArbiter s) := keeps_arbitrate _ h

theorem keeps_takeStrike (h : Keeps s0 s) (b v : Nat) (onset : Int) :
    Keeps s0 (takeStrike b v onset s) := by
  unfold takeStrike
  try dsimp only
  repeat' with_reducible first
    | assumption | rfl | apply keeps_addSuppressed | apply keeps_raiseFault | apply keeps_modBel
    | apply keeps_runArbiter | split

theorem keeps_suppressDue (h : Keeps s0 s) :
    Keeps s0 (suppressDue s) := by
  unfold suppressDue
  try dsimp only
  repeat' with_reducible first | assumption | rfl | apply keeps_addSuppressed | apply keeps_modBel

theorem keeps_strikesDue (h : Keeps s0 s) :
    Keeps s0 (strikesDue s) := by
  unfold strikesDue
  try dsimp only
  repeat' with_reducible first | assumption | rfl | apply keeps_suppressDue | apply keeps_runArbiter | split

theorem keeps_dropLate (h : Keeps s0 s) :
    Keeps s0 (dropLate s) := by
  unfold dropLate
  try dsimp only
  repeat' with_reducible first
    | assumption | rfl | apply keeps_raiseFault | apply keeps_removeStrike | apply keeps_foldl | split | intro _

theorem keeps_endPulse (h : Keeps s0 s) (b : Nat) :
    Keeps s0 (endPulse b s) := by
  unfold endPulse
  try dsimp only
  repeat' with_reducible first | assumption | rfl | apply keeps_modBellRun | split

theorem keeps_coolBell (h : Keeps s0 s) (b : Nat) :
    Keeps s0 (coolBell s b) := by
  unfold coolBell
  try dsimp only
  repeat' with_reducible first | assumption | rfl | apply keeps_modBellRun | split

theorem keeps_cutShort (h : Keeps s0 s) (b : Nat) :
    Keeps s0 (cutShort s b) := by
  unfold cutShort
  try dsimp only
  repeat' with_reducible first | assumption | rfl | apply keeps_raiseFault | apply keeps_endPulse | split

theorem keeps_bellsEnterCut (h : Keeps s0 s) :
    Keeps s0 (bellsEnterCut s) := by
  unfold bellsEnterCut
  try dsimp only
  repeat' with_reducible first
    | assumption | rfl | apply keeps_dropDampers | apply keeps_suppressDue | apply keeps_cutShort
    | apply keeps_foldl | split | intro _

theorem keeps_askWakeUp (h : Keeps s0 s) (r : HourRec) :
    Keeps s0 (askWakeUp r s) := by
  unfold askWakeUp
  try dsimp only
  repeat' with_reducible first
    | assumption | rfl | apply keeps_addSuppressed | apply keeps_modBel | apply keeps_modCsq | split

theorem keeps_takeHourStrike (h : Keeps s0 s) (b v interval part t : Nat) (onset : Int) :
    Keeps s0 (takeHourStrike b v interval part t onset s) := by
  unfold takeHourStrike
  try dsimp only
  repeat' with_reducible first
    | assumption | rfl | apply keeps_takeStrike | apply keeps_askWakeUp | apply keeps_modBel | split

theorem keeps_takeWakeUp (h : Keeps s0 s) (id : Nat) (onset : Int) :
    Keeps s0 (takeWakeUp id onset s) := by
  unfold takeWakeUp
  try dsimp only
  repeat' with_reducible first
    | assumption | rfl | apply keeps_takeStrike | apply keeps_modBel | apply keeps_askWakeUp | split

theorem keeps_bellsWithdraw (h : Keeps s0 s) :
    Keeps s0 (bellsWithdraw s) := by
  unfold bellsWithdraw
  try dsimp only
  repeat' with_reducible first | assumption | rfl | apply keeps_dropDampers | apply keeps_modBel

theorem keeps_bellsEnd (h : Keeps s0 s) :
    Keeps s0 (bellsEnd s) := by
  unfold bellsEnd
  try dsimp only
  repeat' with_reducible first | assumption | rfl | apply keeps_dropDampers | apply keeps_modBel

theorem keeps_modLamp (h : Keeps s0 s) (ch : Nat) (g : Lamp → Lamp) :
    Keeps s0 (modLamp ch g s) := by
  unfold modLamp
  try dsimp only
  repeat' with_reducible first | assumption | rfl | apply keeps_modChr

theorem keeps_takeLamp (h : Keeps s0 s) (ch target dur : Nat) :
    Keeps s0 (takeLamp ch target dur s) := by
  unfold takeLamp
  try dsimp only
  repeat' with_reducible first | assumption | rfl | apply keeps_modLamp

theorem keeps_workLamps (h : Keeps s0 s) : Keeps s0 (workLamps s) := keeps_modChr h _

theorem keeps_judgeHold {s1 : State} (h : Keeps s0 s) : Keeps s0 (judgeHold s1 s) := keeps_ite (keeps_workLamps h) h

theorem keeps_lampsOut (h : Keeps s0 s) :
    Keeps s0 (lampsOut s) := by
  unfold lampsOut
  try dsimp only
  repeat' with_reducible first | assumption | rfl | apply keeps_modChr

theorem keeps_takeMark (h : Keeps s0 s) (bar : Bool) :
    Keeps s0 (takeMark bar s) := by
  unfold takeMark
  try dsimp only
  repeat' with_reducible first | assumption | rfl | apply keeps_modChr | split

theorem keeps_strobeLow (h : Keeps s0 s) :
    Keeps s0 (strobeLow s) := by
  unfold strobeLow
  try dsimp only
  repeat' with_reducible first | assumption | rfl | apply keeps_modChr

theorem keeps_modSensor (h : Keeps s0 s) (n : Nat) (g : SensRun → SensRun) :
    Keeps s0 (modSensor n g s) := by
  unfold modSensor
  try dsimp only
  repeat' with_reducible first | assumption | rfl | apply keeps_modChr

theorem keeps_pinChange (h : Keeps s0 s) (n : Nat) (high : Bool) :
    Keeps s0 (pinChange n high s) := by
  unfold pinChange
  try dsimp only
  repeat' with_reducible first | assumption | rfl | apply keeps_modSensor

theorem keeps_filterExpires (h : Keeps s0 s) (n : Nat) :
    Keeps s0 (filterExpires n s) := by
  unfold filterExpires
  try dsimp only
  repeat' with_reducible first
    | assumption | rfl | apply keeps_modSensor | apply keeps_homeBecomesActive | apply keeps_limitBecomesActive
    | apply keeps_foldl | split | intro _

theorem keeps_encoderExpires (h : Keeps s0 s) (n : Nat) :
    Keeps s0 (encoderExpires n s) := by
  unfold encoderExpires
  try dsimp only
  repeat' with_reducible first
    | assumption | rfl | apply keeps_modSensor | apply keeps_encoderEdge | apply keeps_foldl | split | intro _

theorem keeps_railChanged (h : Keeps s0 s) (old new : RailState) (v : Nat) :
    Keeps s0 (railChanged old new v s) := by
  unfold railChanged
  try dsimp only
  repeat' with_reducible first
    | assumption | rfl | apply keeps_figEntersCut | apply keeps_bellsEnterCut | apply keeps_raiseFault
    | apply keeps_figLeavesCut | apply keeps_figSagChange | apply keeps_foldl | split | intro _

theorem keeps_measureRail (h : Keeps s0 s) (decivolts : Nat) :
    Keeps s0 (measureRail decivolts s) := by
  unfold measureRail
  try dsimp only
  repeat' with_reducible first
    | assumption | rfl | apply keeps_railChanged | exact h.congr rfl rfl rfl rfl rfl rfl

theorem keeps_markBad (h : Keeps s0 s) :
    Keeps s0 (markBad s) := by
  unfold markBad
  try dsimp only
  repeat' with_reducible first | assumption | rfl | apply keeps_raiseFault | apply keeps_modCsq

theorem keeps_queueRead (h : Keeps s0 s) (use : ReadFor) (addr : Nat) :
    Keeps s0 (queueRead use addr s) := by
  unfold queueRead
  try dsimp only
  repeat' with_reducible first | assumption | rfl | apply keeps_modCsq

theorem keeps_popRead (h : Keeps s0 s) :
    Keeps s0 (popRead s) := by
  unfold popRead
  try dsimp only
  repeat' with_reducible first | assumption | rfl | apply keeps_modCsq

theorem keeps_retryRead (h : Keeps s0 s) :
    Keeps s0 (retryRead s) := by
  unfold retryRead
  try dsimp only
  repeat' with_reducible first | assumption | rfl | apply keeps_modCsq

theorem keeps_fillA (h : Keeps s0 s) (item : Nat) (p : Pos) :
    Keeps s0 (fillA item p s) := by
  unfold fillA
  try dsimp only
  repeat' with_reducible first | assumption | rfl | apply keeps_queueRead | apply keeps_modCsq

theorem keeps_fillB (h : Keeps s0 s) (item : Nat) (p : Pos) :
    Keeps s0 (fillB item p s) := by
  unfold fillB
  try dsimp only
  repeat' with_reducible first | assumption | rfl | apply keeps_queueRead | apply keeps_modCsq

theorem keeps_leaveA (h : Keeps s0 s) :
    Keeps s0 (leaveA s) := by
  unfold leaveA
  try dsimp only
  repeat' with_reducible first | assumption | rfl | apply keeps_modCsq | apply keeps_queueRead | split

theorem keeps_leaveB (h : Keeps s0 s) :
    Keeps s0 (leaveB s) := by
  unfold leaveB
  try dsimp only
  repeat' with_reducible first | assumption | rfl | apply keeps_modCsq | apply keeps_queueRead | split

theorem keeps_leaveSlots (n : Nat) : ∀ {s : State}, Keeps s0 s → Keeps s0 (leaveSlots n s) := by
  induction n with
  | zero => exact fun h => h
  | succ n ih =>
    intro s h
    unfold leaveSlots
    exact keeps_ite (ih (keeps_leaveA h)) (keeps_ite (ih (keeps_leaveB h)) h)

theorem keeps_recordUnderrun (h : Keeps s0 s) (item : Nat) :
    Keeps s0 (recordUnderrun item s) := by
  unfold recordUnderrun
  try dsimp only
  repeat' with_reducible first | assumption | rfl | apply keeps_raiseFault | apply keeps_modCsq | split

theorem keeps_underrunAt (h : Keeps s0 s) (c : Cursor) :
    Keeps s0 (underrunAt c s) := by
  unfold underrunAt
  try dsimp only
  repeat' with_reducible first | assumption | rfl | apply keeps_recordUnderrun | split

theorem keeps_skipInvalid (h : Keeps s0 s) :
    Keeps s0 (skipInvalid s) := by
  unfold skipInvalid
  try dsimp only
  repeat' with_reducible first | assumption | rfl | apply keeps_raiseFault

theorem keeps_setPlay (h : Keeps s0 s) (c : Cursor) :
    Keeps s0 (setPlay c s) := by
  unfold setPlay
  try dsimp only
  repeat' with_reducible first | assumption | rfl | apply keeps_modCsq

theorem keeps_setLead (h : Keeps s0 s) (c : Cursor) :
    Keeps s0 (setLead c s) := by
  unfold setLead
  try dsimp only
  repeat' with_reducible first | assumption | rfl | apply keeps_modCsq

theorem keeps_playMove (h : Keeps s0 s) {u : State} (hu : playMove s = some u) : Keeps s0 u := by
  unfold playMove at hu
  dsimp only at hu
  split at hu
  · cases hu
  · cases hu
  · cases hu; exact keeps_setPlay h _
  · split at hu
    · cases hu; exact keeps_setPlay (keeps_ite h (keeps_skipInvalid h)) _
    · split at hu
      · cases hu; exact keeps_setPlay h _
      · split at hu
        · cases hu; exact keeps_setPlay (keeps_underrunAt h _) _
        · cases hu

theorem keeps_playCue (h : Keeps s0 s) (p : Pos) (q : Cue) (t : Nat) :
    Keeps s0 (playCue p q t s) := by
  unfold playCue
  try dsimp only
  repeat' with_reducible first
    | assumption | rfl | apply keeps_takeDamp | apply keeps_takeMove | apply keeps_takeLamp | apply keeps_modCsq
    | split

theorem keeps_stopAtGate (h : Keeps s0 s) (c : Cursor) (t : Nat) :
    Keeps s0 (stopAtGate c t s) := by
  unfold stopAtGate
  try dsimp only
  repeat' with_reducible first
    | assumption | rfl | apply keeps_strobeLow | apply keeps_modCsq | apply keeps_gateCheck
    | apply keeps_modGate | apply keeps_setEngine

theorem keeps_takeGateCue (h : Keeps s0 s) (c : Cursor) (n t : Nat) :
    Keeps s0 (takeGateCue c n t s) := by
  unfold takeGateCue
  try dsimp only
  repeat' with_reducible first
    | assumption | rfl | apply keeps_stopAtGate | apply keeps_raiseFault | apply keeps_modCsq | split

theorem keeps_dispatchPlay (h : Keeps s0 s) (x : Pos × Cue × Nat) :
    Keeps s0 (dispatchPlay x s) := by
  unfold dispatchPlay
  try dsimp only
  repeat' with_reducible first
    | assumption | rfl | apply keeps_takeGateCue | apply keeps_playCue | apply keeps_setPlay | split

theorem keeps_handStrike (h : Keeps s0 s) (p : Pos) (q : Cue) (tau : Int) :
    Keeps s0 (handStrike p q tau s) := by
  unfold handStrike
  try dsimp only
  repeat' with_reducible first | assumption | rfl | apply keeps_takeHourStrike | apply keeps_takeStrike | split

theorem keeps_dispatchLead (h : Keeps s0 s) (p : Pos) (q : Cue) (tau : Int) :
    Keeps s0 (dispatchLead p q tau s) := by
  unfold dispatchLead
  try dsimp only
  repeat' with_reducible first | assumption | rfl | apply keeps_handStrike | apply keeps_setLead

theorem keeps_leadMove (h : Keeps s0 s) {u : State} (hu : leadMove s = some u) : Keeps s0 u := by
  unfold leadMove at hu
  dsimp only at hu
  split at hu
  · cases hu
  · cases hu
  · cases hu; exact keeps_setLead h _
  · split at hu
    · cases hu; exact keeps_setLead (keeps_ite (keeps_skipInvalid h) h) _
    · split at hu
      · cases hu; exact keeps_setLead h _
      · split at hu
        · cases hu
        · split at hu
          · cases hu; exact keeps_setLead (keeps_underrunAt h _) _
          · split at hu
            · cases hu
            · split at hu
              · cases hu; exact keeps_dispatchLead (keeps_underrunAt h _) _ _ _
              · cases hu

theorem keeps_markWaiting (h : Keeps s0 s) :
    Keeps s0 (markWaiting s) := by
  unfold markWaiting
  try dsimp only
  repeat' with_reducible first | assumption | rfl | apply keeps_modCsq

theorem keeps_endWaits (h : Keeps s0 s) : Keeps s0 (endWaits s) := keeps_modCsq h _

theorem keeps_pumpLoop (n : Nat) : ∀ {s : State}, Keeps s0 s → Keeps s0 (pumpLoop n s) := by
  induction n with
  | zero => exact fun h => keeps_markWaiting h
  | succ n ih =>
    intro s h
    unfold pumpLoop
    split
    · rename_i hu
      exact ih (keeps_leaveSlots _ (keeps_playMove h hu))
    · split
      · rename_i hu
        exact ih (keeps_leaveSlots _ (keeps_leadMove h hu))
      · exact keeps_markWaiting h

theorem keeps_answerWakeUp (h : Keeps s0 s) (w : WakeUp) (tau : Int) : Keeps s0 (answerWakeUp w tau s) :=
  keeps_takeWakeUp (keeps_modCsq h _) _ _

theorem keeps_answerWakeUps (n : Nat) : ∀ {s : State}, Keeps s0 s → Keeps s0 (answerWakeUps n s) := by
  induction n with
  | zero => exact fun h => h
  | succ n ih =>
    intro s h
    unfold answerWakeUps
    split
    · exact h
    · exact ih (keeps_answerWakeUp h _ _)

theorem keeps_lateWakeUps (n : Nat) : ∀ {s : State}, Keeps s0 s → Keeps s0 (lateWakeUps n s) := by
  induction n with
  | zero => exact fun h => h
  | succ n ih =>
    intro s h
    unfold lateWakeUps
    split
    · exact h
    · exact ih (keeps_answerWakeUp h _ _)

theorem keeps_wakeUpsDue (h : Keeps s0 s) : Keeps s0 (wakeUpsDue s) := by
  unfold wakeUpsDue
  exact keeps_ite (keeps_answerWakeUps _ h) h

theorem keeps_movePointers (h : Keeps s0 s) : Keeps s0 (movePointers s) :=
  keeps_pumpLoop _ (keeps_leaveSlots _ h)

theorem keeps_stand (h : Keeps s0 s) : Keeps s0 (stand s) := keeps_movePointers (keeps_endWaits h)

theorem keeps_pump (h : Keeps s0 s) : Keeps s0 (pump s) := by
  unfold pump
  exact keeps_ite (keeps_wakeUpsDue (keeps_movePointers h)) (keeps_stand h)

theorem keeps_useHeader (h : Keeps s0 s) (ps : List Part) (builtin : Bool) :
    Keeps s0 (useHeader ps builtin s) := by
  unfold useHeader
  try dsimp only
  repeat' with_reducible first
    | assumption | rfl | apply keeps_pump | apply keeps_modCsq | apply keeps_fillA | apply keeps_fillB | split

theorem keeps_armCues (h : Keeps s0 s) :
    Keeps s0 (armCues s) := by
  unfold armCues
  try dsimp only
  repeat' with_reducible first
    | assumption | rfl | apply keeps_modCsq | apply keeps_useHeader | apply keeps_queueRead | split

theorem keeps_playDue (h : Keeps s0 s) :
    Keeps s0 (playDue s) := by
  unfold playDue
  try dsimp only
  repeat' with_reducible first
    | assumption | rfl | apply keeps_pump | apply keeps_dispatchPlay | apply keeps_recordUnderrun | split

theorem keeps_leadDue (h : Keeps s0 s) :
    Keeps s0 (leadDue s) := by
  unfold leadDue
  try dsimp only
  repeat' with_reducible first
    | assumption | rfl | apply keeps_recordUnderrun | apply keeps_pump | apply keeps_dispatchLead | split

theorem keeps_giveMark (h : Keeps s0 s) :
    Keeps s0 (giveMark s) := by
  unfold giveMark
  try dsimp only
  repeat' with_reducible first | assumption | rfl | apply keeps_takeMark | apply keeps_modCsq | split

theorem keeps_nextPart (h : Keeps s0 s) :
    Keeps s0 (nextPart s) := by
  unfold nextPart
  try dsimp only
  repeat' with_reducible first | assumption | rfl | apply keeps_modCsq

theorem keeps_programmeEnds (h : Keeps s0 s) :
    Keeps s0 (programmeEnds s) := by
  unfold programmeEnds
  try dsimp only
  repeat' with_reducible first
    | assumption | rfl | apply keeps_strobeLow | apply keeps_modCsq | apply keeps_parkChecks
    | apply keeps_bellsEnd | apply keeps_clearGate | apply keeps_setEngine

theorem keeps_endPart (h : Keeps s0 s) :
    Keeps s0 (endPart s) := by
  unfold endPart
  try dsimp only
  repeat' with_reducible first
    | assumption | rfl | apply keeps_pump | apply keeps_nextPart | apply keeps_lateWakeUps
    | apply keeps_programmeEnds | split

theorem keeps_endParts (n : Nat) : ∀ {s : State}, Keeps s0 s → Keeps s0 (endParts n s) := by
  induction n with
  | zero => exact fun h => h
  | succ n ih =>
    intro s h
    unfold endParts
    exact keeps_ite (ih (keeps_endPart h)) h

theorem keeps_leadTurn (h : Keeps s0 s) {u : State} (hu : leadTurn s = some u) : Keeps s0 u := by
  unfold leadTurn at hu
  split at hu
  · cases hu
  · split at hu
    · exact keeps_leadMove h hu
    · cases hu
  · exact keeps_leadMove h hu

theorem keeps_takeWaiting (n : Nat) : ∀ {s : State}, Keeps s0 s → Keeps s0 (takeWaiting n s) := by
  induction n with
  | zero => exact fun h => keeps_markWaiting h
  | succ n ih =>
    intro s h
    unfold takeWaiting
    split
    · split
      · rename_i hu
        exact ih (keeps_leaveSlots _ (keeps_playMove h hu))
      · split
        · rename_i hu
          exact ih (keeps_leaveSlots _ (keeps_leadTurn h hu))
        · split
          · exact ih (keeps_leaveSlots _ (keeps_dispatchPlay h _))
          · exact keeps_markWaiting h
    · exact keeps_stand h

theorem keeps_playWaiting (n : Nat) : ∀ {s : State}, Keeps s0 s → Keeps s0 (playWaiting n s) := by
  induction n with
  | zero => exact fun h => h
  | succ n ih =>
    intro s h
    have h1 := keeps_wakeUpsDue (keeps_giveMark (keeps_takeWaiting (3 * lookFuel s) (keeps_leaveSlots (lookFuel s) h)))
    unfold playWaiting
    exact keeps_ite (ih (keeps_endPart h1)) h1

theorem keeps_resumeClock (h : Keeps s0 s) : Keeps s0 (resumeClock s) :=
  keeps_playWaiting _ (keeps_modCsq h _)

theorem keeps_settleExpires (h : Keeps s0 s) :
    Keeps s0 (settleExpires s) := by
  unfold settleExpires
  try dsimp only
  repeat' with_reducible first
    | assumption | rfl | apply keeps_resumeClock | apply keeps_modGate | apply keeps_setEngine

theorem keeps_cuesWithdraw (h : Keeps s0 s) :
    Keeps s0 (cuesWithdraw s) := by
  unfold cuesWithdraw
  try dsimp only
  repeat' with_reducible first | assumption | rfl | apply keeps_strobeLow | apply keeps_modCsq

theorem keeps_slotMoment (h : Keeps s0 s) (slot : Nat) (kind : Option SlotKind) (day : Nat)
    (requested : Option Nat) :
    Keeps s0 (slotMoment slot kind day requested s) := by
  unfold slotMoment
  try dsimp only
  repeat' with_reducible first | assumption | rfl | apply keeps_modShe | apply keeps_raiseFault | split

theorem keeps_callDelayExpires (h : Keeps s0 s) (p : PendingSlot) :
    Keeps s0 (callDelayExpires p s) := by
  unfold callDelayExpires
  try dsimp only
  repeat' with_reducible first
    | assumption | rfl | apply keeps_queueFrame | apply keeps_modShe | apply keeps_enterIdle | split

theorem keeps_callReadBack (h : Keeps s0 s) (id : Nat) :
    Keeps s0 (callReadBack id s) := by
  unfold callReadBack
  try dsimp only
  repeat' with_reducible first | assumption | rfl | apply keeps_modShe | split

theorem keeps_answerCall (h : Keeps s0 s) (src slot : Nat) :
    Keeps s0 (answerCall src slot s) := by
  unfold answerCall
  try dsimp only
  repeat' with_reducible first | assumption | rfl | apply keeps_queueFrame | apply keeps_modShe

theorem keeps_callWhileCalling (h : Keeps s0 s) (src : Nat) (g : Gather) :
    Keeps s0 (callWhileCalling src g s) := by
  unfold callWhileCalling
  try dsimp only
  repeat' with_reducible first | assumption | rfl | apply keeps_answerCall | apply keeps_removeFrame | split

theorem keeps_moveToCaller (h : Keeps s0 s) (src : Nat) (a : AnswerRec) :
    Keeps s0 (moveToCaller src a s) := by
  unfold moveToCaller
  try dsimp only
  repeat' with_reducible first
    | assumption | rfl | apply keeps_removeFrame | apply keeps_queueFrame | apply keeps_modShe

theorem keeps_takeCall (h : Keeps s0 s) (src : Nat) (c : CallIn) :
    Keeps s0 (takeCall src c s) := by
  unfold takeCall
  try dsimp only
  repeat' with_reducible first
    | assumption | rfl | apply keeps_answerCall | apply keeps_raiseFault | apply keeps_callWhileCalling
    | apply keeps_moveToCaller | split

theorem keeps_menuReadBack (h : Keeps s0 s) (id : Nat) :
    Keeps s0 (menuReadBack id s) := by
  unfold menuReadBack
  try dsimp only
  repeat' with_reducible first | assumption | rfl | apply keeps_modShe | split

theorem keeps_agreeWaitExpires (h : Keeps s0 s) (a : AnswerRec) :
    Keeps s0 (agreeWaitExpires a s) := by
  unfold agreeWaitExpires
  try dsimp only
  repeat' with_reducible first
    | assumption | rfl | apply keeps_raiseFault | apply keeps_enterIdle | apply keeps_writeLastSlot

theorem keeps_takeMenu (h : Keeps s0 s) (src : Nat) (m : MenuIn) :
    Keeps s0 (takeMenu src m s) := by
  unfold takeMenu
  try dsimp only
  repeat' with_reducible first | assumption | rfl | apply keeps_modShe | split

theorem keeps_windowExpires (h : Keeps s0 s) (p : PendingSlot) (g : Gather) :
    Keeps s0 (windowExpires p g s) := by
  unfold windowExpires
  try dsimp only
  repeat' with_reducible first | assumption | rfl | apply keeps_queueFrame | apply keeps_modShe

theorem keeps_enterArming (h : Keeps s0 s) (r : ShowRec) :
    Keeps s0 (enterArming r s) := by
  unfold enterArming
  try dsimp only
  repeat' with_reducible first
    | assumption | rfl | apply keeps_judgeHold | apply keeps_openGate0 | apply keeps_armCues
    | apply keeps_writeLastSlot
    | apply keeps_modShe

theorem keeps_menuChanged (h : Keeps s0 s) (slot day prog : Nat) :
    Keeps s0 (menuChanged slot day prog s) := by
  unfold menuChanged
  try dsimp only
  repeat' with_reducible first
    | assumption | rfl | apply keeps_enterIdle | apply keeps_raiseFault | apply keeps_writeLastSlot
    | apply keeps_queueFrame | apply keeps_removeFrames

theorem keeps_agreeOrChange (h : Keeps s0 s) (r : ShowRec) :
    Keeps s0 (agreeOrChange r s) := by
  unfold agreeOrChange
  try dsimp only
  repeat' with_reducible first | assumption | rfl | apply keeps_enterArming | apply keeps_menuChanged | split

theorem keeps_agreeReadBack (h : Keeps s0 s) (id : Nat) :
    Keeps s0 (agreeReadBack id s) := by
  unfold agreeReadBack
  try dsimp only
  repeat' with_reducible first | assumption | rfl | apply keeps_agreeOrChange | split

theorem keeps_agreeInIdle (h : Keeps s0 s) (a : AgreeIn) :
    Keeps s0 (agreeInIdle a s) := by
  unfold agreeInIdle
  try dsimp only
  repeat' with_reducible first | assumption | rfl | apply keeps_writeLastSlot | apply keeps_queueFrame | split

theorem keeps_takeAgree (h : Keeps s0 s) (src : Nat) (a : AgreeIn) :
    Keeps s0 (takeAgree src a s) := by
  unfold takeAgree
  try dsimp only
  repeat' with_reducible first
    | assumption | rfl | apply keeps_agreeInIdle | apply keeps_agreeOrChange | apply keeps_raiseFault
    | apply keeps_enterIdle | apply keeps_writeLastSlot | apply keeps_removeFrames | split

theorem keeps_leaveShow (h : Keeps s0 s) :
    Keeps s0 (leaveShow s) := by
  unfold leaveShow
  try dsimp only
  repeat' with_reducible first | assumption | rfl | apply keeps_modShe

theorem keeps_sendWithdraw (h : Keeps s0 s) (reason : Reason) :
    Keeps s0 (sendWithdraw reason s) := by
  unfold sendWithdraw
  try dsimp only
  repeat' with_reducible first | assumption | rfl | apply keeps_queueFrame | split

theorem keeps_figsLeave (h : Keeps s0 s) :
    Keeps s0 (figsLeave s) := by
  unfold figsLeave
  try dsimp only
  repeat' with_reducible first | assumption | rfl | apply keeps_muteFigures | apply keeps_figsWithdraw | split

theorem keeps_withdrawRunning (h : Keeps s0 s) (reason : Reason) :
    Keeps s0 (withdrawRunning reason s) := by
  unfold withdrawRunning
  try dsimp only
  repeat' with_reducible first
    | assumption | rfl | apply keeps_sendWithdraw | apply keeps_raiseFault | apply keeps_leaveShow
    | apply keeps_lampsOut | apply keeps_clearGate | apply keeps_cuesWithdraw | apply keeps_figsLeave
    | apply keeps_bellsWithdraw | apply keeps_setEngine

theorem keeps_withdrawSettling (h : Keeps s0 s) (reason : Reason) :
    Keeps s0 (withdrawSettling reason s) := by
  unfold withdrawSettling
  try dsimp only
  repeat' with_reducible first
    | assumption | rfl | apply keeps_lampsOut | apply keeps_sendWithdraw | apply keeps_leaveShow

theorem keeps_withdrawShow (h : Keeps s0 s) (reason : Reason) :
    Keeps s0 (withdrawShow reason s) := by
  unfold withdrawShow
  try dsimp only
  repeat' with_reducible first
    | assumption | rfl | apply keeps_withdrawRunning | apply keeps_withdrawSettling | split

theorem keeps_takeWithdraw (h : Keeps s0 s) (src slot : Nat) :
    Keeps s0 (takeWithdraw src slot s) := by
  unfold takeWithdraw
  try dsimp only
  repeat' with_reducible first | assumption | rfl | apply keeps_removeMember | split

theorem keeps_takeGo (h : Keeps s0 s) (src : Nat) (x : GoIn) :
    Keeps s0 (takeGo src x s) := by
  unfold takeGo
  try dsimp only
  repeat' with_reducible first
    | assumption | rfl | apply keeps_excludePeers | apply keeps_setMembers | apply keeps_releaseGate
    | apply keeps_withdrawShow | split

theorem keeps_engineStops (h : Keeps s0 s) :
    Keeps s0 (engineStops s) := by
  unfold engineStops
  try dsimp only
  repeat' with_reducible first
    | assumption | rfl | apply keeps_enterIdle | apply keeps_removeFrames | apply keeps_withdrawShow | split

theorem keeps_stopUnmuted (h : Keeps s0 s) :
    Keeps s0 (stopUnmuted s) := by
  unfold stopUnmuted
  try dsimp only
  repeat' with_reducible first
    | assumption | rfl | apply keeps_engineStops | apply keeps_raiseFault | apply keeps_modIml | split

theorem keeps_emptyQueue (h : Keeps s0 s) : Keeps s0 (emptyQueue s) :=
  keeps_modBus h _ rfl rfl rfl (Nat.zero_le _)

theorem keeps_stopMuted (h : Keeps s0 s) (code : FaultCode) (detail : Nat) :
    Keeps s0 (stopMuted code detail s) := by
  unfold stopMuted
  try dsimp only
  repeat' with_reducible first
    | assumption | rfl | apply keeps_recordFault | apply keeps_muteZones | apply keeps_muteFigures
    | apply keeps_engineStops | apply keeps_emptyQueue | apply keeps_modIml

theorem keeps_acceptRestart (h : Keeps s0 s) :
    Keeps s0 (acceptRestart s) := by
  unfold acceptRestart
  try dsimp only
  repeat' with_reducible first | assumption | rfl | apply keeps_withdrawShow | apply keeps_modIml | split

theorem keeps_headerFails (h : Keeps s0 s) :
    Keeps s0 (headerFails s) := by
  unfold headerFails
  try dsimp only
  repeat' with_reducible first | assumption | rfl | apply keeps_withdrawShow | apply keeps_markBad

theorem keeps_headerGood (h : Keeps s0 s) (data : List Byte) :
    Keeps s0 (headerGood data s) := by
  unfold headerGood
  try dsimp only
  repeat' with_reducible first
    | assumption | rfl | apply keeps_gateCheck | apply keeps_useHeader | apply keeps_headerFails | split

theorem keeps_headerRead (h : Keeps s0 s) (r : PortRead) (data : List Byte) :
    Keeps s0 (headerRead r data s) := by
  unfold headerRead
  try dsimp only
  repeat' with_reducible first
    | assumption | rfl | apply keeps_headerGood | apply keeps_popRead | apply keeps_retryRead
    | apply keeps_headerFails | apply keeps_stopUnmuted | split

theorem keeps_putSlot (h : Keeps s0 s) (use : ReadFor) (sl : CueSlot) :
    Keeps s0 (putSlot use sl s) := by
  unfold putSlot
  try dsimp only
  repeat' with_reducible first | assumption | rfl | apply keeps_modCsq | split

theorem keeps_blockGood (h : Keeps s0 s) (use : ReadFor) (sl : CueSlot) (data : List Byte) :
    Keeps s0 (blockGood use sl data s) := by
  unfold blockGood
  try dsimp only
  repeat' with_reducible first
    | assumption | rfl | apply keeps_gateCheck | apply keeps_pump | apply keeps_putSlot

theorem keeps_blockFails (h : Keeps s0 s) (use : ReadFor) (sl : CueSlot) :
    Keeps s0 (blockFails use sl s) := by
  unfold blockFails
  try dsimp only
  repeat' with_reducible first
    | assumption | rfl | apply keeps_markBad | apply keeps_putSlot | apply keeps_withdrawShow
    | apply keeps_gateCheck | apply keeps_pump | split

theorem keeps_blockRead (h : Keeps s0 s) (r : PortRead) (data : List Byte) :
    Keeps s0 (blockRead r data s) := by
  unfold blockRead
  try dsimp only
  repeat' with_reducible first
    | assumption | rfl | apply keeps_retryRead | apply keeps_blockGood | apply keeps_popRead
    | apply keeps_blockFails | apply keeps_stopUnmuted | apply keeps_putSlot | split

theorem keeps_matchCalendar (h : Keeps s0 s) :
    Keeps s0 (matchCalendar s) := by
  unfold matchCalendar
  try dsimp only
  repeat' with_reducible first | assumption | rfl | apply keeps_modSck

theorem keeps_recomputeLevel (h : Keeps s0 s) :
    Keeps s0 (recomputeLevel s) := by
  unfold recomputeLevel
  try dsimp only
  repeat' with_reducible first | assumption | rfl | apply keeps_judgeHold | apply keeps_modSck

theorem keeps_raiseSlot (h : Keeps s0 s) (id day : Nat) :
    Keeps s0 (raiseSlot id day s) := by
  unfold raiseSlot
  try dsimp only
  repeat' with_reducible first | assumption | rfl | apply keeps_slotMoment | split

theorem keeps_wrapCentury (h : Keeps s0 s) : Keeps s0 (wrapCentury s) := by
  unfold wrapCentury
  split
  · exact h
  · exact keeps_modSck_grade h _ fun _ => ⟨by dsimp only; omega, by dsimp only; omega⟩

theorem keeps_endQuiet (h : Keeps s0 s) (a b : Nat) :
    Keeps s0 (endQuiet a b s) := by
  unfold endQuiet
  try dsimp only
  repeat' with_reducible first | assumption | rfl | apply keeps_modSck

theorem keeps_crossMinute (h : Keeps s0 s) :
    Keeps s0 (crossMinute s) := by
  unfold crossMinute
  try dsimp only
  repeat' with_reducible first
    | assumption | rfl | apply keeps_wrapCentury | apply keeps_endQuiet | apply keeps_modSck
    | apply keeps_raiseSlot | apply keeps_recomputeLevel | apply keeps_matchCalendar | split

theorem keeps_stepSlots (h : Keeps s0 s) (a b : Nat) : Keeps s0 (stepSlots a b s) := by
  have h1 : ∀ (p : Prop) [Decidable p] (d : Nat), Keeps s0 (if p then s else raiseFault .slotMissed d s) :=
    fun _ _ d => keeps_ite h (keeps_raiseFault h _ d)
  unfold stepSlots
  exact keeps_ite (keeps_raiseSlot (h1 _ _) _ _) (h1 _ _)

theorem keeps_stepClock (h : Keeps s0 s) (new : Nat) :
    Keeps s0 (stepClock new s) := by
  unfold stepClock
  try dsimp only
  repeat' with_reducible first
    | assumption | rfl | apply keeps_modSck | apply keeps_endQuiet | apply keeps_recomputeLevel
    | apply keeps_matchCalendar | apply keeps_stepSlots | split

theorem keeps_startSlew (h : Keeps s0 s) (delta : Int) :
    Keeps s0 (startSlew delta s) := by
  unfold startSlew
  try dsimp only
  repeat' with_reducible first | assumption | rfl | apply keeps_modSck

theorem keeps_setGrade (h : Keeps s0 s) {g : Nat} (hg : Bounded s → 1 ≤ g ∧ g ≤ 15) : Keeps s0 (setGrade g s) :=
  keeps_modSck_grade h _ hg

theorem keeps_takeTime (h : Keeps s0 s) (src : Nat) (x : TimeIn) : Keeps s0 (takeTime src x s) := by
  unfold takeTime
  split
  · rename_i ha
    have hg : Bounded s → 1 ≤ x.grade + 1 ∧ x.grade + 1 ≤ 15 := fun b => by
      have := b.grade
      simp only [adopts, Bool.and_eq_true, decide_eq_true_eq] at ha
      omega
    have h1 := keeps_recomputeLevel (keeps_setGrade h hg)
    exact keeps_ite (keeps_startSlew h1 _) (keeps_stepClock h1 _)
  · exact h

theorem keeps_slewPeriod (h : Keeps s0 s) (d : Nat) :
    Keeps s0 (slewPeriod d s) := by
  unfold slewPeriod
  try dsimp only
  repeat' with_reducible first | assumption | rfl | apply keeps_modSck

theorem keeps_takeSetTime (h : Keeps s0 s) (day tod : Nat) : Keeps s0 (takeSetTime day tod s) := by
  unfold takeSetTime
  exact keeps_ite (keeps_recomputeLevel (keeps_setGrade (keeps_stepClock h _) fun _ => by decide)) h

theorem keeps_takeQuiet (h : Keeps s0 s) (minute : Nat) :
    Keeps s0 (takeQuiet minute s) := by
  unfold takeQuiet
  try dsimp only
  repeat' with_reducible first | assumption | rfl | apply keeps_recomputeLevel | apply keeps_modSck | split

theorem keeps_ageExpires (h : Keeps s0 s) (d : Nat) : Keeps s0 (ageExpires d s) :=
  keeps_modSck_grade h _ fun _ => ⟨by dsimp only; omega, by dsimp only; omega⟩

theorem keeps_timePeriodExpires (h : Keeps s0 s) (d : Nat) :
    Keeps s0 (timePeriodExpires d s) := by
  unfold timePeriodExpires
  try dsimp only
  repeat' with_reducible first | assumption | rfl | apply keeps_modSck | apply keeps_queueTime | split

theorem keeps_timeForHello (h : Keeps s0 s) :
    Keeps s0 (timeForHello s) := by
  unfold timeForHello
  try dsimp only
  repeat' with_reducible first | assumption | rfl | apply keeps_queueTime | split

theorem keeps_lineCharacter (h : Keeps s0 s) :
    Keeps s0 (lineCharacter s) := by
  unfold lineCharacter
  try dsimp only
  repeat' with_reducible first | assumption | rfl | apply keeps_modBus

theorem keeps_countBroken (h : Keeps s0 s) (rest : List Byte) : Keeps s0 (countBroken rest s) :=
  keeps_markDiscard (h.then (fun b => b.bus rfl rfl rfl (bump_le _ _) b.rxCheck b.txCollision b.queue) rfl rfl)

theorem keeps_setAssembly (h : Keeps s0 s) (a : List Byte) : Keeps s0 (setAssembly a s) :=
  keeps_modBus h _ rfl rfl rfl (Nat.le_refl _)

theorem keeps_assemble (h : Keeps s0 s) (data : Byte) (mark : Bool) : Keeps s0 (assemble data mark s) := by
  unfold assemble
  try dsimp only
  repeat' with_reducible first | assumption | apply keeps_countBroken | apply keeps_setAssembly | split

theorem keeps_takeCharacter (h : Keeps s0 s) (data : Byte) (mark : Bool) :
    Keeps s0 (takeCharacter data mark s) := by
  unfold takeCharacter
  try dsimp only
  repeat' with_reducible first | assumption | apply keeps_assemble | apply keeps_lineCharacter | split

theorem keeps_lineBroken (h : Keeps s0 s) (ends : Nat) :
    Keeps s0 (lineBroken ends s) := by
  unfold lineBroken
  try dsimp only
  repeat' with_reducible first | assumption | rfl | apply keeps_modBus

theorem keeps_breakFrame (h : Keeps s0 s) (cause : BreakCause) :
    Keeps s0 (breakFrame cause s) := by
  unfold breakFrame
  try dsimp only
  repeat' with_reducible first
    | assumption | rfl | apply keeps_countBroken | apply keeps_lineCharacter | apply keeps_lineBroken | split

theorem keeps_checkFails (h : Keeps s0 s) : Keeps s0 (checkFails s) := by
  unfold checkFails
  exact keeps_ite (keeps_markDiscard ((keeps_lineCharacter h).then (fun b =>
    b.bus rfl rfl rfl b.rxBroken (bump_le _ _) b.txCollision b.queue) rfl rfl)) h

theorem keeps_peerHeard (h : Keeps s0 s) (src : Nat) :
    Keeps s0 (peerHeard src s) := by
  unfold peerHeard
  try dsimp only
  repeat' with_reducible first | assumption | rfl | apply keeps_modBus | split

theorem keeps_duplicate (h : Keeps s0 s) :
    Keeps s0 (duplicate s) := by
  unfold duplicate
  try dsimp only
  repeat' with_reducible first | assumption | rfl | apply keeps_stopMuted | apply keeps_modBus | split

theorem keeps_frameEnds (h : Keeps s0 s) :
    Keeps s0 (frameEnds s) := by
  unfold frameEnds
  try dsimp only
  repeat' with_reducible first | assumption | rfl | apply keeps_lineCharacter | apply keeps_modBus

theorem keeps_hear (h : Keeps s0 s) (src : Byte) (isTime : Bool) (owner : State → State)
    (howner : ∀ s, Keeps s0 s → Keeps s0 (owner s)) :
    Keeps s0 (hear src isTime owner s) := by
  unfold hear
  try dsimp only
  repeat' with_reducible first
    | assumption | rfl | apply howner | apply keeps_frameEnds | apply keeps_duplicate | apply keeps_peerHeard
    | split

theorem keeps_withLayout (h : Keeps s0 s) {α : Type} (p : Option α) (owner : α → State → State)
    (howner : ∀ x s, Keeps s0 s → Keeps s0 (owner x s)) :
    Keeps s0 (withLayout p owner s) := by
  unfold withLayout
  try dsimp only
  repeat' with_reducible first | assumption | rfl | apply howner | split

theorem keeps_takeHello (h : Keeps s0 s) (src : Nat) :
    Keeps s0 (takeHello src s) := by
  unfold takeHello
  try dsimp only
  repeat' with_reducible first
    | assumption | rfl | apply keeps_removeMember | apply keeps_timeForHello | apply keeps_freeStation | split

theorem keeps_takeReassertFrame (h : Keeps s0 s) (src : Nat) (zones : ZoneSet) :
    Keeps s0 (takeReassertFrame src zones s) := by
  unfold takeReassertFrame
  try dsimp only
  repeat' with_reducible first
    | assumption | rfl | apply keeps_raiseFault | apply keeps_takeReassert | apply keeps_figLosesZone
    | apply keeps_queueReassert | apply keeps_foldl | split | intro _

theorem keeps_silenceExpires (h : Keeps s0 s) (n : Nat) :
    Keeps s0 (silenceExpires n s) := by
  unfold silenceExpires
  try dsimp only
  repeat' with_reducible first
    | assumption | rfl | apply keeps_freeStation | apply keeps_removeMember | apply keeps_modBus

theorem keeps_dropAssembly (h : Keeps s0 s) : Keeps s0 (dropAssembly s) :=
  keeps_ite (keeps_countBroken h _) (keeps_setAssembly h _)

theorem keeps_beginAttempt (h : Keeps s0 s) (f : TxFrame) : Keeps s0 (beginAttempt f s) :=
  keeps_modBus (keeps_dropAssembly h) _ rfl rfl rfl (by simp)

theorem keeps_attemptStarts (h : Keeps s0 s) :
    Keeps s0 (attemptStarts s) := by
  unfold attemptStarts
  try dsimp only
  repeat' with_reducible first | assumption | rfl | apply keeps_beginAttempt | apply keeps_modBus | split

theorem keeps_leaveQueue (h : Keeps s0 s) (f : TxFrame) : Keeps s0 (leaveQueue f s) :=
  keeps_modBus h _ rfl rfl rfl (List.length_filter_le _ _)

theorem keeps_collide (h : Keeps s0 s) : Keeps s0 (collide s) := by
  unfold collide
  split
  · have h1 : Keeps s0 (s.modBus fun b => { b with
        tx := .breaking (s.now + breakUs s) (!decide (3 ≤ s.bus.fails)), fails := b.fails + 1
        txCollision := bump 1 b.txCollision }) :=
      h.then (fun b => b.bus rfl rfl rfl b.rxBroken b.rxCheck (bump_le _ _) b.queue) rfl rfl
    exact keeps_ite (keeps_onLoss (keeps_raiseFault (keeps_leaveQueue h1 _) _ _) _) h1
  · exact h

theorem keeps_breakEnds (h : Keeps s0 s) :
    Keeps s0 (breakEnds s) := by
  unfold breakEnds
  try dsimp only
  repeat' with_reducible first | assumption | rfl | apply keeps_modBus | split

theorem keeps_readBack (h : Keeps s0 s) (f : TxFrame) :
    Keeps s0 (readBack f s) := by
  unfold readBack
  try dsimp only
  repeat' with_reducible first
    | assumption | rfl | apply keeps_modIml | apply keeps_callReadBack | apply keeps_menuReadBack
    | apply keeps_agreeReadBack | apply keeps_readyReadBack | apply keeps_takeGo | apply keeps_claimReadBack
    | apply keeps_releaseReadBack | split

theorem keeps_frameIsSent (h : Keeps s0 s) :
    Keeps s0 (frameIsSent s) := by
  unfold frameIsSent
  try dsimp only
  repeat' with_reducible first
    | assumption | rfl | apply keeps_readBack | apply keeps_leaveQueue | apply keeps_frameEnds
    | apply keeps_modBus | split

theorem keeps_requeueReady (h : Keeps s0 s) :
    Keeps s0 (requeueReady s) := by
  unfold requeueReady
  try dsimp only
  repeat' with_reducible first | assumption | rfl | apply keeps_queueReady | split

theorem keeps_queueHello (h : Keeps s0 s) :
    Keeps s0 (queueHello s) := by
  unfold queueHello
  try dsimp only
  repeat' with_reducible first | assumption | rfl | apply keeps_queueFrame | apply keeps_modIml

theorem keeps_requeueHello (h : Keeps s0 s) :
    Keeps s0 (requeueHello s) := by
  unfold requeueHello
  try dsimp only
  repeat' with_reducible first | assumption | rfl | apply keeps_queueHello | split

theorem keeps_retryClaim (h : Keeps s0 s) :
    Keeps s0 (retryClaim s) := by
  unfold retryClaim
  try dsimp only
  repeat' with_reducible first | assumption | rfl | apply keeps_oweTrial | apply keeps_modZon | split

theorem keeps_startReceiver (h : Keeps s0 s) :
    Keeps s0 (startReceiver s) := by
  unfold startReceiver
  try dsimp only
  repeat' with_reducible first | assumption | rfl | apply keeps_modBus | split

theorem keeps_acceptPlay (h : Keeps s0 s) (m : Image) :
    Keeps s0 (acceptPlay m s) := by
  unfold acceptPlay
  try dsimp only
  repeat' with_reducible first | assumption | rfl | apply keeps_modBel | apply keeps_modFig

theorem keeps_acceptChannels (h : Keeps s0 s) (m : Image) :
    Keeps s0 (acceptChannels m s) := by
  unfold acceptChannels
  try dsimp only
  repeat' with_reducible first | assumption | rfl | apply keeps_modChr

theorem keeps_acceptClock (h : Keeps s0 s) (m : Image) :
    Keeps s0 (acceptClock m s) := by
  unfold acceptClock
  try dsimp only
  repeat' with_reducible first
    | assumption | rfl | apply keeps_recomputeLevel | apply keeps_matchCalendar | apply keeps_modSck
    | apply keeps_wrapCentury

theorem keeps_acceptSettings (h : Keeps s0 s) (m : Image) : Keeps s0 (acceptSettings m s) :=
  h.then (fun b => ⟨b.grade, b.faults, b.advisory, b.suppressed, b.moveSkipped, b.rxBroken, b.rxCheck,
      b.txCollision,
    b.stray, b.queue⟩) rfl rfl

theorem keeps_accept (h : Keeps s0 s) (m : Image) :
    Keeps s0 (accept m s) := by
  unfold accept
  try dsimp only
  repeat' with_reducible first
    | assumption | rfl | apply keeps_acceptClock | apply keeps_acceptChannels | apply keeps_acceptPlay
    | apply keeps_acceptSettings | apply keeps_startReceiver | apply keeps_modIml

theorem keeps_startLine (h : Keeps s0 s) (config : List Byte) :
    Keeps s0 (startLine config s) := by
  unfold startLine
  try dsimp only
  repeat' with_reducible first | assumption | rfl | apply keeps_modBus | apply keeps_modIml | split

theorem keeps_stopAtStart (h : Keeps s0 s) (code : FaultCode) (detail : Nat) (config : List Byte) :
    Keeps s0 (stopAtStart code detail config s) := by
  unfold stopAtStart
  try dsimp only
  repeat' with_reducible first
    | assumption | rfl | apply keeps_stopMuted | apply keeps_startReceiver | apply keeps_startLine
    | apply keeps_modIml

theorem keeps_finishLoad (h : Keeps s0 s) (m : Image) :
    Keeps s0 (finishLoad m s) := by
  unfold finishLoad
  try dsimp only
  repeat' with_reducible first
    | assumption | rfl | apply keeps_stopAtStart | apply keeps_raiseFault | apply keeps_accept
    | apply keeps_foldl | split | intro _

theorem keeps_areaGood (h : Keeps s0 s) (l : LoadRec) (d : List Byte) :
    Keeps s0 (areaGood l d s) := by
  unfold areaGood
  try dsimp only
  repeat' with_reducible first | assumption | rfl | apply keeps_modIml | apply keeps_finishLoad | split

theorem keeps_areaBad (h : Keeps s0 s) (l : LoadRec) (silent : Bool) :
    Keeps s0 (areaBad l silent s) := by
  unfold areaBad
  try dsimp only
  repeat' with_reducible first | assumption | rfl | apply keeps_modIml | apply keeps_stopAtStart | split

theorem keeps_imageRead (h : Keeps s0 s) (data : List Byte) :
    Keeps s0 (imageRead data s) := by
  unfold imageRead
  try dsimp only
  repeat' with_reducible first | assumption | rfl | apply keeps_areaBad | apply keeps_areaGood | split

theorem keeps_rereadExpires (h : Keeps s0 s) :
    Keeps s0 (rereadExpires s) := by
  unfold rereadExpires
  try dsimp only
  repeat' with_reducible first | assumption | rfl | apply keeps_modIml | split

theorem keeps_enterService (h : Keeps s0 s) :
    Keeps s0 (enterService s) := by
  unfold enterService
  try dsimp only
  repeat' with_reducible first
    | assumption | rfl | apply keeps_queueHello | apply keeps_modIml | apply keeps_beginHoming
    | apply keeps_foldl | split | intro _

/-- The reset values are within the bounds, and the moment and the waiting commands stay. -/
theorem keeps_fullResetState (h : Keeps s0 s) : Keeps s0 (fullResetState s) := by
  have hr : Bounded State.reset := by constructor <;> decide
  exact h.then (fun _ => hr.congr rfl rfl rfl rfl) rfl rfl

theorem keeps_releaseReset (h : Keeps s0 s) :
    Keeps s0 (releaseReset s) := by
  unfold releaseReset
  try dsimp only
  repeat' with_reducible first | assumption | rfl | exact h.congr rfl rfl rfl rfl rfl rfl

theorem keeps_restartBegins (h : Keeps s0 s) : Keeps s0 (restartBegins s) :=
  h.then (fun b => b.bus rfl rfl rfl b.rxBroken b.rxCheck b.txCollision (Nat.zero_le _)) rfl rfl

theorem keeps_answerQuery (h : Keeps s0 s) (page : Nat) :
    Keeps s0 (answerQuery page s) := by
  unfold answerQuery
  try dsimp only
  repeat' with_reducible first | assumption | rfl | apply keeps_queueStatus | split

theorem keeps_withAccess (h : Keeps s0 s) (src : Byte) (owner : State → State)
    (howner : ∀ s, Keeps s0 s → Keeps s0 (owner s)) :
    Keeps s0 (withAccess src owner s) := by
  unfold withAccess
  try dsimp only
  repeat' with_reducible first | assumption | rfl | apply howner | apply keeps_raiseFault | split

theorem keeps_forTargets (h : Keeps s0 s) (src : Byte) (targets : Set32) (owner : State → State)
    (howner : ∀ s, Keeps s0 s → Keeps s0 (owner s)) :
    Keeps s0 (forTargets src targets owner s) := by
  unfold forTargets
  try dsimp only
  repeat' with_reducible first | assumption | rfl | apply howner | apply keeps_withAccess | split

theorem keeps_serveSetTime (h : Keeps s0 s) (src : Byte) (x : Nat × Nat) :
    Keeps s0 (serveSetTime src x s) := by
  unfold serveSetTime
  try dsimp only
  repeat' with_reducible first
    | assumption | rfl | apply keeps_withAccess | apply keeps_takeSetTime | split | intro _

theorem keeps_servePlayNow (h : Keeps s0 s) (src : Byte) (x : Set32 × Nat) :
    Keeps s0 (servePlayNow src x s) := by
  unfold servePlayNow
  try dsimp only
  repeat' with_reducible first
    | assumption | rfl | apply keeps_forTargets | apply keeps_slotMoment | split | intro _

theorem keeps_serveQuiet (h : Keeps s0 s) (src : Byte) (x : Set32 × Nat) :
    Keeps s0 (serveQuiet src x s) := by
  unfold serveQuiet
  try dsimp only
  repeat' with_reducible first
    | assumption | rfl | apply keeps_forTargets | apply keeps_takeQuiet | split | intro _

theorem keeps_serveQuery (h : Keeps s0 s) (src : Byte) (x : Nat × Nat) :
    Keeps s0 (serveQuery src x s) := by
  unfold serveQuery
  try dsimp only
  repeat' with_reducible first
    | assumption | rfl | apply keeps_withAccess | apply keeps_answerQuery | split | intro _

theorem keeps_serveRestart (h : Keeps s0 s) (src : Byte) (targets : Set32) :
    Keeps s0 (serveRestart src targets s) := by
  unfold serveRestart
  try dsimp only
  repeat' with_reducible first | assumption | rfl | apply keeps_forTargets | apply keeps_acceptRestart

theorem keeps_serveClaim (h : Keeps s0 s) (src : Byte) (x : Bool × ZoneSet) :
    Keeps s0 (serveClaim src x s) := by
  unfold serveClaim
  try dsimp only
  repeat' with_reducible first | assumption | rfl | apply keeps_takeClaim | split

theorem keeps_serveReassert (h : Keeps s0 s) (src : Byte) (x : Bool × ZoneSet) :
    Keeps s0 (serveReassert src x s) := by
  unfold serveReassert
  try dsimp only
  repeat' with_reducible first | assumption | rfl | apply keeps_takeReassertFrame | split

theorem keeps_slewExpires (h : Keeps s0 s) :
    Keeps s0 (slewExpires s) := by
  unfold slewExpires
  try dsimp only
  repeat' with_reducible first | assumption | rfl | apply keeps_crossMinute | apply keeps_slewPeriod | split

theorem keeps_ageTimerOut (h : Keeps s0 s) :
    Keeps s0 (ageTimerOut s) := by
  unfold ageTimerOut
  try dsimp only
  repeat' with_reducible first | assumption | rfl | apply keeps_ageExpires | split

theorem keeps_timeTimerOut (h : Keeps s0 s) :
    Keeps s0 (timeTimerOut s) := by
  unfold timeTimerOut
  try dsimp only
  repeat' with_reducible first | assumption | rfl | apply keeps_timePeriodExpires | split

theorem keeps_callDelayOut (h : Keeps s0 s) :
    Keeps s0 (callDelayOut s) := by
  unfold callDelayOut
  try dsimp only
  repeat' with_reducible first | assumption | rfl | apply keeps_callDelayExpires | split

theorem keeps_windowOut (h : Keeps s0 s) :
    Keeps s0 (windowOut s) := by
  unfold windowOut
  try dsimp only
  repeat' with_reducible first | assumption | rfl | apply keeps_windowExpires | split

theorem keeps_agreeWaitOut (h : Keeps s0 s) :
    Keeps s0 (agreeWaitOut s) := by
  unfold agreeWaitOut
  try dsimp only
  repeat' with_reducible first | assumption | rfl | apply keeps_agreeWaitExpires | split

theorem keeps_leadInOut (h : Keeps s0 s) :
    Keeps s0 (leadInOut s) := by
  unfold leadInOut
  try dsimp only
  repeat' with_reducible first | assumption | rfl | apply keeps_gateCheck | apply keeps_modGate | split

theorem keeps_gateTimerOut (h : Keeps s0 s) :
    Keeps s0 (gateTimerOut s) := by
  unfold gateTimerOut
  try dsimp only
  repeat' with_reducible first | assumption | rfl | apply keeps_gateTimerExpires | split

theorem keeps_settleOut (h : Keeps s0 s) :
    Keeps s0 (settleOut s) := by
  unfold settleOut
  try dsimp only
  repeat' with_reducible first | assumption | rfl | apply keeps_settleExpires | split

theorem keeps_headerReadEnds (h : Keeps s0 s) (data : List Byte) :
    Keeps s0 (headerReadEnds data s) := by
  unfold headerReadEnds
  try dsimp only
  repeat' with_reducible first | assumption | rfl | apply keeps_headerRead | split

theorem keeps_blockReadEnds (h : Keeps s0 s) (data : List Byte) :
    Keeps s0 (blockReadEnds data s) := by
  unfold blockReadEnds
  try dsimp only
  repeat' with_reducible first | assumption | rfl | apply keeps_blockRead | split

theorem keeps_pulseOut (h : Keeps s0 s) (b : Nat) :
    Keeps s0 (pulseOut b s) := by
  unfold pulseOut
  try dsimp only
  repeat' with_reducible first | assumption | rfl | apply keeps_runArbiter | apply keeps_endPulse | split

theorem keeps_recoveryOut (h : Keeps s0 s) (b : Nat) :
    Keeps s0 (recoveryOut b s) := by
  unfold recoveryOut
  try dsimp only
  repeat' with_reducible first | assumption | rfl | apply keeps_runArbiter | apply keeps_modBellRun | split

theorem keeps_heatOut (h : Keeps s0 s) :
    Keeps s0 (heatOut s) := by
  unfold heatOut
  try dsimp only
  repeat' with_reducible first
    | assumption | rfl | apply keeps_coolBell | apply keeps_modBel | apply keeps_foldl | split | intro _

theorem keeps_damperOut (h : Keeps s0 s) (b : Nat) :
    Keeps s0 (damperOut b s) := by
  unfold damperOut
  try dsimp only
  repeat' with_reducible first | assumption | rfl | apply keeps_modBellRun | split

theorem keeps_sensorFilterOut (h : Keeps s0 s) (n : Nat) :
    Keeps s0 (sensorFilterOut n s) := by
  unfold sensorFilterOut
  try dsimp only
  repeat' with_reducible first | assumption | rfl | apply keeps_filterExpires | split

theorem keeps_encoderFilterOut (h : Keeps s0 s) (n : Nat) :
    Keeps s0 (encoderFilterOut n s) := by
  unfold encoderFilterOut
  try dsimp only
  repeat' with_reducible first | assumption | rfl | apply keeps_encoderExpires | split

theorem keeps_jamOut (h : Keeps s0 s) (f : Nat) :
    Keeps s0 (jamOut f s) := by
  unfold jamOut
  try dsimp only
  repeat' with_reducible first | assumption | rfl | apply keeps_jamExpires | split

theorem keeps_coastOut (h : Keeps s0 s) (f : Nat) :
    Keeps s0 (coastOut f s) := by
  unfold coastOut
  try dsimp only
  repeat' with_reducible first | assumption | rfl | apply keeps_modFigRun | split

theorem keeps_holdOut (h : Keeps s0 s) (f : Nat) :
    Keeps s0 (holdOut f s) := by
  unfold holdOut
  try dsimp only
  repeat' with_reducible first | assumption | rfl | apply keeps_driveLeg | split

theorem keeps_homingLimitOut (h : Keeps s0 s) (f : Nat) :
    Keeps s0 (homingLimitOut f s) := by
  unfold homingLimitOut
  try dsimp only
  repeat' with_reducible first | assumption | rfl | apply keeps_failHoming | split

theorem keeps_jamWaitOut (h : Keeps s0 s) (f : Nat) :
    Keeps s0 (jamWaitOut f s) := by
  unfold jamWaitOut
  try dsimp only
  repeat' with_reducible first | assumption | rfl | apply keeps_jamWaitEnds | split

theorem keeps_lampPeriodBegins (h : Keeps s0 s) :
    Keeps s0 (lampPeriodBegins s) := by
  unfold lampPeriodBegins
  try dsimp only
  repeat' with_reducible first | assumption | rfl | apply keeps_modChr | apply keeps_workLamps

theorem keeps_strobeOut (h : Keeps s0 s) :
    Keeps s0 (strobeOut s) := by
  unfold strobeOut
  try dsimp only
  repeat' with_reducible first | assumption | rfl | apply keeps_strobeLow | split

end Sys2Proof.Machine
end

