-- ==== Sys2Proof/Laws/Walk.lean ====
section
/-! SUPPORT. The walk of a programme (R57): its positions in order, and that a pointer moved forward comes to its
goal (R65). -/

namespace Sys2Proof.Machine

/-- Walk order, by numbers. -/
theorem posLt_iff (p q : Pos) : posLt p q = true ↔ p.part < q.part ∨ (p.part = q.part ∧ (secNo p.sec < secNo q.sec
    ∨ (secNo p.sec = secNo q.sec ∧ (p.pass < q.pass ∨ (p.pass = q.pass ∧ p.idx < q.idx))))) := by
  have : p.sec = q.sec ↔ secNo p.sec = secNo q.sec := by cases p.sec <;> cases q.sec <;> simp [secNo]
  simp only [posLt, decide_eq_true_eq, this]

/-- A position of a cue of the walk (R57). -/
def onWalk (ps : List Part) (p : Pos) : Prop :=
  p.part < ps.length ∧ p.pass < (partAt ps p.part).passes p.sec ∧ p.idx < ((partAt ps p.part).range p.sec).count

/-- The walk, cue by cue. -/
def walkPositions (ps : List Part) : List Pos :=
  (List.range ps.length).flatMap fun i => [Section.intro, .body, .coda].flatMap fun sec =>
    (List.range ((partAt ps i).passes sec)).flatMap fun n =>
      (List.range ((partAt ps i).range sec).count).map fun k => ⟨i, sec, n, k⟩

/-- It holds the walk's positions. -/
theorem mem_walkPositions (ps : List Part) (p : Pos) : p ∈ walkPositions ps ↔ onWalk ps p := by
  rcases p with ⟨i, sec, n, k⟩
  simp only [walkPositions, List.mem_flatMap, List.mem_range, List.mem_map, onWalk]
  constructor
  · rintro ⟨a, ha, b, hb, c, hc, d, hd, he⟩
    injection he with h1 h2 h3 h4
    subst h1; subst h2; subst h3; subst h4
    exact ⟨ha, hc, hd⟩
  · rintro ⟨h1, h2, h3⟩
    exact ⟨i, h1, sec, by cases sec <;> simp, n, h2, k, h3, rfl⟩

/-- It is as long as the walk. -/
theorem walkPositions_length (ps : List Part) : (walkPositions ps).length = walkLength ps := by
  have : ∀ (l : List Part), (List.range l.length).map (fun i => partAt l i) = l := by
    intro l
    apply List.ext_getElem
    · simp
    · intro i h1 h2
      simp [partAt, List.getD_eq_getElem?_getD, List.getElem?_eq_getElem h2]
  simp only [walkPositions, walkLength, List.length_flatMap]
  conv_rhs => rw [← this ps]
  rw [List.map_map]
  congr 1
  apply List.map_congr_left
  intro i _
  simp only [Function.comp, List.map_cons, List.map_nil, List.sum_cons, List.sum_nil, Part.passes, Part.range,
    List.length_map, List.length_range, List.map_const', List.sum_replicate]
  simp
  omega

/-- The position of the next section pass lies on the walk, later (R57). -/
theorem nextStart_onWalk {ps : List Part} {p r : Pos} (hp : onWalk ps p) (h : nextStart ps p = some r) :
    onWalk ps r ∧ posLt p r = true := by
  unfold nextStart at h
  split at h
  · rename_i hlt
    cases h
    refine ⟨⟨hp.1, hlt, by have := hp.2.2; simp only at this ⊢; omega⟩, ?_⟩
    rw [posLt_iff]; simp
  · rw [Option.map_eq_some_iff] at h
    obtain ⟨x, hx, rfl⟩ := h
    have hm := List.mem_of_find?_eq_some hx
    have hs := List.find?_some hx
    simp only [walkSections, List.mem_flatMap, List.mem_range, List.mem_map, List.mem_filter, decide_eq_true_eq] at hm
    obtain ⟨i, hi, sec, ⟨_, hc, hpas⟩, rfl⟩ := hm
    refine ⟨⟨hi, hpas, hc⟩, ?_⟩
    simp only [decide_eq_true_eq] at hs
    rw [posLt_iff]; simp only
    rcases hs with h | ⟨h1, h2⟩
    · exact .inl h
    · exact .inr ⟨h1, .inl h2⟩

/-- The first position of a later item lies on the walk, later (R60). -/
theorem nextItemFrom_onWalk {ps : List Part} {b : Nat} : ∀ (n : Nat) {p r : Pos}, onWalk ps p → blockOf ps p = b →
    nextItemFrom ps b n p = some r → onWalk ps r ∧ posLt p r = true
  | 0, _, _, _, _, h => by cases h
  | n + 1, p, r, hp, hb, h => by
    simp only [nextItemFrom] at h
    split at h
    · rename_i hk
      cases h
      refine ⟨⟨hp.1, hp.2.1, hk⟩, ?_⟩
      rw [posLt_iff]; simp only [lt_self_iff_false, true_and, false_or]
      simp only [blockOf, cueIndex] at hb
      omega
    · split at h
      · cases h
      · rename_i q hq
        obtain ⟨h1, h2⟩ := nextStart_onWalk hp hq
        split at h
        · rename_i hbq
          obtain ⟨h3, h4⟩ := nextItemFrom_onWalk n h1 hbq h
          refine ⟨h3, ?_⟩
          rw [posLt_iff] at h2 h4 ⊢; omega
        · cases h; exact ⟨h1, h2⟩

/-- A later item has another block (R60). -/
theorem nextItemFrom_block {ps : List Part} {b : Nat} : ∀ (n : Nat) {p r : Pos},
    nextItemFrom ps b n p = some r → blockOf ps r ≠ b
  | 0, _, _, h => by cases h
  | n + 1, p, r, h => by
    simp only [nextItemFrom] at h
    split at h
    · cases h
      simp only [blockOf, cueIndex]; omega
    · split at h
      · cases h
      · split at h
        · exact nextItemFrom_block n h
        · rename_i hb; cases h; exact hb

/-- A cursor past a BAD block lies in the next item, or past the last (R62). -/
theorem skipItem_next {ps : List Part} {c : Cursor} (h : c.pos ≠ none) : (c.skipItem ps).item = c.item + 1 := by
  unfold Cursor.skipItem
  split
  · contradiction
  · rename_i p _
    cases hn : nextItem ps p with
    | none => rfl
    | some r => simp [Cursor.moveTo, nextItemFrom_block _ hn]

/-- Fewer cues follow the next item's first. -/
theorem after_lt {ps : List Part} {p r : Pos} (hr : onWalk ps r) (h : posLt p r = true) :
    ((walkPositions ps).filter (posLt r)).length < ((walkPositions ps).filter (posLt p)).length := by
  rw [← List.countP_eq_length_filter, ← List.countP_eq_length_filter]
  have hsub : ∀ x, posLt r x = true → posLt p x = true := by
    intro x hx; rw [posLt_iff] at h hx ⊢; omega
  have hrr : posLt r r = false := by
    by_contra hc
    have : posLt r r = true := by simpa using hc
    rw [posLt_iff] at this; omega
  have hm := (mem_walkPositions ps r).2 hr
  obtain ⟨l1, l2, he⟩ := List.append_of_mem hm
  rw [he]
  simp only [List.countP_append, List.countP_cons, h, hrr]
  have a1 : List.countP (posLt r) l1 ≤ List.countP (posLt p) l1 := List.countP_mono_left fun x _ => hsub x
  have a2 : List.countP (posLt r) l2 ≤ List.countP (posLt p) l2 := List.countP_mono_left fun x _ => hsub x
  simp; omega

/-- R65: a pointer moved forward to a position comes to it. -/
theorem jumpTo_pos (ps : List Part) (q : Pos) : ∀ (n : Nat) (c : Cursor) (p : Pos), c.pos = some p → onWalk ps p →
    ((walkPositions ps).filter (posLt p)).length < n → (c.jumpTo ps q n).pos = some q
  | 0, _, _, _, _, h => by omega
  | n + 1, c, p, hc, hp, h => by
    simp only [Cursor.jumpTo, hc]
    split
    · rename_i r hr
      obtain ⟨h1, h2⟩ := nextItemFrom_onWalk _ hp rfl hr
      split
      · exact jumpTo_pos ps q n _ r rfl h1 (by have := after_lt h1 h2; omega)
      · rfl
    · rfl

/-- R65: a pointer at a cue before a part stands at that part's first cue. -/
theorem toPart_pos (s : State) (c : Cursor) (p : Pos) (i : Nat) (hc : c.pos = some p) (hi : p.part < i)
    (hp : onWalk (partsOf s) p) : (c.toPart (partsOf s) (lookFuel s) i).pos = firstPosFrom (partsOf s) i := by
  unfold Cursor.toPart
  rw [hc]; simp only
  rw [if_neg (by omega)]
  split
  · rename_i q hq
    rw [hq]
    refine jumpTo_pos _ q _ c p hc hp ?_
    have := List.length_filter_le (posLt p) (walkPositions (partsOf s))
    rw [walkPositions_length] at this
    unfold lookFuel; omega
  · rename_i hq; rw [hq]

/-- R65: any other pointer stays where it stood. -/
theorem toPart_stays (ps : List Part) (n i : Nat) (c : Cursor) (h : ∀ q, c.pos = some q → i ≤ q.part) :
    c.toPart ps n i = c := by
  unfold Cursor.toPart
  split
  · rfl
  · rename_i p hp; rw [if_pos (h p hp)]

end Sys2Proof.Machine
end

