-- ==== Sys2Proof/WellFormed.lean ====
section
/-! DEFINITION. Which commands the world can send: operand ranges of the spec. `exec` needs none of
them (an operand outside its range names nothing and changes nothing); they are what a sender keeps. -/

namespace Sys2Proof

/-- A payload a good frame can carry (R147: length 0 to 24). -/
def Instr.payloadOk (p : List Byte) : Bool := decide (p.length ≤ 24)

/-- The kind codes of 12_formats, Table 5. -/
def knownKinds : List Byte :=
  [0x01, 0x02, 0x10, 0x11, 0x12, 0x13, 0x20, 0x21, 0x30, 0x31, 0x40, 0x41, 0x50, 0x51, 0x52, 0x53, 0x54]

/-- The reassert flag a CLAIM frame carries, its first payload byte (12_formats, Tables 5 and 6). -/
def Instr.flagByte (p : List Byte) : Byte := p.getD 0 0

/-- The operands of a command lie in the ranges the spec gives. -/
def Instr.wellFormed : Instr → Bool
  | .time _ _ p | .setTime _ _ p | .playNow _ _ p | .quietUntil _ _ p | .statusQuery _ _ p
  | .restart _ _ p | .hello _ _ p | .fault _ _ p | .status _ _ p | .call _ _ p | .menu _ _ p
  | .agree _ _ p | .withdraw _ _ p | .ready _ _ p | .go _ _ p | .release _ _ p => payloadOk p
  | .claim _ _ p => payloadOk p && flagByte p != 1
  | .reassert _ _ p => payloadOk p && flagByte p == 1
  | .unknownKindFrame _ k _ p => payloadOk p && !knownKinds.contains k
  | .frameBroken t (.lineBreak e) => decide (t ≤ e)
  | .frameBroken t (.strayBreak e) => decide (t ≤ e)
  | .pulseEnd _ b | .recoveryEnd _ b | .damperDrop _ b => decide (1 ≤ b ∧ b ≤ 12)
  | .sensorPinChange _ n _ | .sensorFilterExpiry _ n | .encoderFilterExpiry _ n => decide (1 ≤ n ∧ n ≤ 8)
  | .jamTimerExpiry _ f | .coastTimerExpiry _ f | .reversalHoldExpiry _ f | .homingLimitExpiry _ f
  | .jamHomingWaitExpiry _ f => decide (1 ≤ f ∧ f ≤ 6)
  | .silenceTimerExpiry _ n => decide (1 ≤ n ∧ n ≤ 30)
  | .fullReset _ | .resetRelease _ | .imageReadDone _ _ | .rereadTimerExpiry _ | .listenTimerExpiry _
  | .restartMoment _ | .minuteBoundary _ | .slewPeriodExpiry _ | .ageTimerExpiry _ | .timePeriodExpiry _
  | .frameCheckFail _ | .callDelayExpiry _ | .windowTimerExpiry _ | .agreeWaitExpiry _ | .leadInExpiry _
  | .gateTimerExpiry _ | .settleTimerExpiry _ | .headerReadDone _ _ | .blockReadDone _ _ | .cueDue _
  | .strikeDispatch _ | .wakeUpDue _ | .partEnd _ | .beatMark _ | .strikeDue _ | .lateDeadline _
  | .heatPeriodExpiry _ | .settlingDone _ | .ownClaimWindowEnd _ | .peerClaimWindowEnd _ | .attemptStart _
  | .collision _ | .breakEnd _ | .frameSent _ | .readyRequeue _ | .releaseRequeue _ | .helloRequeue _
  | .claimRetryTrial _ | .railMeasurement _ _ | .lampPeriod _ | .pwmPeriod _ | .strobePulseEnd _
  | .characterReceived _ _ _ | .frameBroken _ .framing | .frameBroken _ (.newMark _)
  | .frameBroken _ .badLength | .frameBroken _ .gap => true

end Sys2Proof
end

