-- ==== Sys2Proof/Tests/Slice0.lean ====
section
/-! SUPPORT. Tests: ill-formed commands refused, worked examples of the spec, and for each statement with hypotheses a
concrete state and operands that meet them. -/

namespace Sys2Proof.Tests

open Sys2Proof Sys2Proof.Machine

-- The tests are checked one after another: side by side, each kernel evaluation holds a thread of its own.
set_option Elab.async false

/-! ## Ill-formed commands are refused -/

theorem test_payload_too_long : (Instr.time 0 5 (List.replicate 25 0)).wellFormed = false := by decide
theorem test_payload_longest : (Instr.time 0 5 (List.replicate 24 0)).wellFormed = true := by decide
theorem test_claim_with_reassert_flag : (Instr.claim 0 5 (1 :: List.replicate 8 0)).wellFormed = false := by decide
theorem test_reassert_without_flag : (Instr.reassert 0 5 (List.replicate 9 0)).wellFormed = false := by decide
theorem test_known_kind_is_no_unknown_kind : (Instr.unknownKindFrame 0 0x54 5 []).wellFormed = false := by decide
theorem test_break_ends_before_it_begins : (Instr.frameBroken 10 (.lineBreak 9)).wellFormed = false := by decide
theorem test_stray_break_ends_before_it_begins : (Instr.frameBroken 10 (.strayBreak 9)).wellFormed = false := by decide
theorem test_bell_thirteen : (Instr.pulseEnd 0 13).wellFormed = false := by decide
theorem test_sensor_nine : (Instr.sensorFilterExpiry 0 9).wellFormed = false := by decide
theorem test_figure_seven : (Instr.jamTimerExpiry 0 7).wellFormed = false := by decide
theorem test_station_thirty_one : (Instr.silenceTimerExpiry 0 31).wellFormed = false := by decide

/-! ## Worked examples of the spec -/

/-- 1.9: 2025-03-14 is day 9,204, a Friday (the sixth after Saturday). -/
theorem test_day_number : dayNumber 25 3 14 = 9204 ∧ 9204 % 7 = 6 ∧ dateOf 9204 = (25, 3, 14) := by
  decide +kernel

/-- 1.9: a TIME of 13 characters lasts 2 ms at 62,500 bit/s and 1 ms at 250,000 bit/s. -/
theorem test_time_length : frameMs State.reset 13 = 2
    ∧ frameMs { State.reset with bus := { Bus.reset with fast := true } } 13 = 1 := by decide

/-- The published check value of CRC-8 with polynomial 07h over the digits 1 to 9. -/
theorem test_crc8 : crc8 [0x31, 0x32, 0x33, 0x34, 0x35, 0x36, 0x37, 0x38, 0x39] = 0xF4 := by
  decide +kernel

/-- 4.12: the times of ticks 96, 192 and 200 through three segments. -/
theorem test_show_times : tauOf ⟨0, 0, 0, 96⟩ 96 = 2500000 ∧ tauOf ⟨0, 2500000, 96, 144⟩ 192 = 4166666
    ∧ tauOf ⟨0, 4166666, 192, 144⟩ 200 = 4305554 := by decide

/-- 5.12: the widths of bell 3's curve at velocities 90, 64 and 70. -/
theorem test_curve_widths : let c := [(20, 1200), (60, 2400), (100, 4000), (127, 5200)]
    curveWidth c 90 = 3600 ∧ curveWidth c 64 = 2560 ∧ curveWidth c 70 = 2800 := by decide

/-- 8.8: a fade from 40 to 200 in 1,000,000 µs after 250,000; one from 120 to 0 in 500,000 µs after 125,000. -/
theorem test_fades : fadeLevel ⟨40, some ⟨40, 200, 0, 1000000⟩⟩ 250000 = 80
    ∧ fadeLevel ⟨120, some ⟨120, 0, 0, 500000⟩⟩ 125000 = 90 := by decide

/-- 8.9: warn code 2, cut code 2: the 20th measurement of 19.4 V enters SAG, the 10th of 15.1 V CUT. -/
theorem test_rail_dip : railStep (warnAt 2) (cutAt 2) 194 .normal 0 19 = (.sag, 0, 0)
    ∧ railStep (warnAt 2) (cutAt 2) 151 .sag 9 0 = (.cut, 0, 0)
    ∧ railStep (warnAt 2) (cutAt 2) 174 .cut 0 0 = (.cut, 1, 0) := by decide

/-- 3.10: with the ready set 3, 6, 9 the ranks are 1, 2, 3. -/
theorem test_gate_ranks : let r : Set32 := Bits.ofList 32 [3, 6, 9]
    let p : Set32 := Bits.ofList 32 [3, 6, 9, 14]
    gateRank 3 r p = 1 ∧ gateRank 6 r p = 2 ∧ gateRank 9 r p = 3 := by decide

/-- 6.3: the mirrored waypoints of path 17. -/
theorem test_mirrored_move : resolveMove ⟨1, 2, 1, 2, none, 4000, 3600, 15, 300, 20, 400, 30, []⟩
    ⟨[(1000, 80), (2500, 50), (1800, 60)], [], []⟩ true = some [(3000, 80), (1500, 50), (2200, 60)] := by decide

/-! ## Witnesses: states and operands that meet the hypotheses of the statements -/

/-- A station in service, number 3, grade 5, QUIET, at 1 ms. -/
def base : State := { State.reset with
  now := 1000, inReset := false
  iml := { Iml.reset with station := .inService, number := some 3, accepted := true }
  sck := { Sck.reset with grade := 5, level := .quiet }
  bus := { Bus.reset with rxOn := true } }

/-- `base` with a configuration of its Image Loader. -/
def loading (l : LoadRec) (now : Nat) : State := { base with
  now := now, iml := { Iml.reset with load := some l } }

/-- `base` in a show of slot 600, programme 4, stations 3 and 5. -/
def inAShow (e : Engine) : State := { base with
  she := ⟨e, none, none, none, some ⟨600, 0, 4, .quiet, 10, Bits.ofList 32 [3, 5], false⟩⟩ }

/-- `base` with a frame of number 7 on the line since 0. -/
def sendingFrame (c : Content) : State := { base with
  now := 10000, bus := { base.bus with tx := .sending, current := some 7, queue := [⟨7, c⟩], nextId := 8 } }

theorem witness_StepRunsFrontCommand :
    ({ base with pending := [.cueDue 5, .partEnd 6] } : State).pending = .cueDue 5 :: [.partEnd 6] := rfl

theorem witness_FullResetAndReleaseBeginTheLoad :
    State.reset.now ≤ 0 ∧ State.reset.inReset = true ∧ base.now ≤ 1000 ∧ base.inReset = false := by decide

/-- A header with magic and version, empty areas, and its sum word. -/
def goodHeader : List Byte := [0x2E, 0x6C, 1, 0] ++ List.replicate 26 0 ++ [0xD1, 0x93]

theorem witness_AreaReads_good : let s := loading ⟨1, 1, some 0, none, [], [], []⟩ 72
    Live 72 s ∧ s.iml.load = some ⟨1, 1, some 0, none, [], [], []⟩ ∧ 0 + 72 ≤ 72 ∧ goodHeader.length = 32
      ∧ le16 goodHeader 0 = 0x6C2E ∧ le16 goodHeader 2 = 1 ∧ wordSum goodHeader % 65536 = 0
      ∧ ∀ i ∈ [4, 9, 14, 19], le24 goodHeader i + le16 goodHeader (i + 3) ≤ 16777216 := by
  unfold Live; decide

theorem witness_AreaReads_first : let l : LoadRec := ⟨1, 1, some 0, none, [], [], []⟩
    let s := loading l 72
    let d : List Byte := List.replicate 32 0
    Live 72 s ∧ s.iml.load = some l ∧ l.attempt = 1 ∧ l.started = some 0 ∧ d.length = (loadArea s l.area).len
      ∧ 0 + 2 * (4 + d.length) ≤ 72 ∧ areaValid l.area d = false := by
  unfold Live; decide

theorem witness_AreaReads_reread : let l : LoadRec := ⟨1, 1, none, some 72, [], [], []⟩
    Live 72 (loading l 72) ∧ (loading l 72).iml.load = some l ∧ l.reread = some 72 ∧ 72 ≤ 72 := by
  unfold Live; decide

theorem witness_AreaReads_second : let l : LoadRec := ⟨1, 2, some 0, none, [], [], []⟩
    let s := loading l 72
    Live 72 s ∧ s.she.engine = .idle ∧ s.iml.load = some l ∧ l.attempt = 2 ∧ l.started = some 0
      ∧ ∀ d ∈ [List.replicate 32 (0 : Byte), List.replicate 32 0xFF], d.length = (loadArea s l.area).len
        ∧ 0 + 2 * (4 + d.length) ≤ 72 ∧ areaValid l.area d = false := by
  unfold Live; decide

/-- `base` has no figure configured. -/
theorem noFigures : ∀ f, figRec base f = none
  | 0 | 1 | 2 | 3 | 4 | 5 | 6 => rfl
  | _ + 7 => rfl

theorem witness_ListenTimer : let s : State := { base with
      iml := { base.iml with station := .listening, listen := some 1000 } }
    Live 1000 s ∧ ZonesAtRest s ∧ s.iml.station = .listening ∧ s.iml.listen = some 1000 ∧ 1000 ≤ 1000
      ∧ (∀ f, figRec s f = none) ∧ s.bus.queue.length < 8 := by
  exact ⟨⟨rfl, by decide⟩, ⟨rfl, rfl⟩, rfl, rfl, by decide, noFigures, by decide⟩

theorem witness_RestartMoment : let s := fun (w : RestartWait) => ({ base with
      iml := { base.iml with restart := w } } : State)
    Live 1000 (s .due) ∧ (s .due).iml.restart = .due ∧ Live 1000 (s (.awaiting 4))
      ∧ (s (.awaiting 4)).iml.restart = .awaiting 4 ∧ ∀ f ∈ (s (.awaiting 4)).bus.queue, f.id ≠ 4 := by
  unfold Live; decide

/-- `base` at the start of minute 600 of day 0, with a slot table that lists every full hour. -/
def atTen : State := { base with
  sck := { base.sck with clkMs := 36000000, clkAt := 1000, minuteDone := 599, slots := [⟨0, .hour, 0x00FFFFFF⟩] } }

theorem witness_MinuteBoundary : let s := atTen
    let dealt : State := { s with sck := { s.sck with lastSlot := some (600, 0) } }
    let unlisted : State := { s with sck := { s.sck with slots := [] } }
    (Live 1000 dealt ∧ 600 = clockMs { dealt with now := 1000 } / 60000 ∧ dealt.sck.minuteDone < 600
      ∧ dealt.sck.lastSlot = some (600 % 1440, 600 / 1440))
    ∧ (Live 1000 unlisted ∧ 600 = clockMs { unlisted with now := 1000 } / 60000
      ∧ unlisted.sck.minuteDone < 600 ∧ listed unlisted.sck.slots (600 % 1440) = false) := by
  unfold Live; decide

/-- 8.8: the hold lifts 125,000 µs into a fade from 120 to 0 in 500,000 µs: the output returns at level 90 (R138). -/
theorem test_hold_lifts_at_the_present_level : let s : State := { inAShow .running with
      now := 125000
      sck := { atTen.sck with clkAt := 125000, level := .closed, slots := [], calendar := [], entry := none }
      chr := { base.chr with
        channels := base.chr.channels.set 16 ⟨.lamp, .bar⟩
        lamps := base.chr.lamps.set 16 ⟨40, some ⟨120, 0, 0, 500000⟩⟩ } }
    lampOutput s 16 = 0 ∧ lampOutput (judgeHold s { s with sck := { s.sck with level := .quiet } }) 16 = 90
      ∧ (lampsAt 125000 .quiet s).getD 16 ⟨0, none⟩ = ⟨90, some ⟨120, 0, 0, 500000⟩⟩
      ∧ lampsAt 125000 .closed s = s.chr.lamps := by
  decide +kernel

theorem witness_CenturyEnd : let s : State := { base with
      sck := { base.sck with clkMs := 36525 * 86400000, clkAt := 1000, minuteDone := 36525 * 1440 - 1 } }
    Live 1000 s ∧ s.sck.minuteDone < 36525 * 1440 ∧ 36525 * 86400000 ≤ clockMs { s with now := 1000 } := by
  unfold Live; decide

theorem witness_SlotMoment : let idle := atTen
    let busy : State := { atTen with she := { atTen.she with engine := .callWait } }
    (Live 1000 idle ∧ 600 = clockMs { idle with now := 1000 } / 60000 ∧ idle.sck.minuteDone < 600
      ∧ listed idle.sck.slots (600 % 1440) = true ∧ idle.sck.lastSlot ≠ some (600 % 1440, 600 / 1440)
      ∧ idle.she.engine = .idle)
    ∧ (Live 1000 busy ∧ 600 = clockMs { busy with now := 1000 } / 60000 ∧ busy.sck.minuteDone < 600
      ∧ listed busy.sck.slots (600 % 1440) = true ∧ busy.sck.lastSlot ≠ some (600 % 1440, 600 / 1440)
      ∧ busy.she.engine ≠ .idle) := by
  unfold Live; decide

theorem witness_SlewAndAge : let s : State := { base with
      sck := { base.sck with slew := 1, slewTimer := some 1000, ageTimer := some 1000, minuteDone := 0 } }
    Live 1000 s ∧ s.sck.slewTimer = some 1000 ∧ (s.sck.clkMs + 65) / 60000 ≤ s.sck.minuteDone
      ∧ s.sck.ageTimer = some 1000 ∧ 1000 ≤ 1000 := by
  unfold Live; decide

theorem witness_TimePeriod : let s : State := { base with sck := { base.sck with timeTimer := some 1000 } }
    let waits : State := { s with bus := { s.bus with queue := [⟨0, .time none⟩] } }
    Live 1000 s ∧ s.sck.timeTimer = some 1000 ∧ Sends s ∧ s.bus.queue = []
      ∧ Live 1000 waits ∧ waits.sck.timeTimer = some 1000 ∧ ∃ f ∈ waits.bus.queue, f.content = .time none := by
  unfold Live Sends; decide

/-- The payload of a TIME of grade `g`, 2000-01-01 (a Saturday), at `ms` of the day. -/
def timePayload (g : Byte) (ms : Nat) : List Byte := [g, 0, 1, 1, 0] ++ leBytes 4 ms

theorem witness_HeardTime : let at_ := fun ms => ({ atTen with
      sck := { atTen.sck with clkMs := ms } } : State)
    let lands := fun ms => ms + (13 * charUs base + 500) / 1000
    (∀ ms ∈ [1000, 999, 36000000], Hears 1000 5 (at_ ms) ∧ clockMs { at_ ms with now := 1000 } = ms)
      ∧ parseTime (timePayload 4 1498) = some ⟨4, 1498⟩ ∧ (4 : Nat) + 1 ≤ base.sck.grade
      ∧ parseTime (timePayload 5 1498) = some ⟨5, 1498⟩ ∧ ¬(5 : Nat) + 1 ≤ base.sck.grade
      ∧ lands 1498 = 1500 ∧ 1500 ≤ 1000 + 500 ∧ 999 + 500 < 1500 ∧ 1500 + 500 < 36000000
      ∧ missedAtStep atTen.sck.slots 999 1500 = [] ∧ parseTime (timePayload 4 3630999) = some ⟨4, 3630999⟩
      ∧ missedAtStep atTen.sck.slots 1000 (lands 3630999) = [60] := by
  unfold Hears Live; decide +kernel

theorem witness_SetTime : let late : State := { atTen with sck := { atTen.sck with clkMs := 2 * 86400000 } }
    (∀ s ∈ [atTen, late], Hears 1000 32 s ∧ Serves 32 s ∧ s.she.engine = .idle)
    ∧ parseSetTime [0, 1, 2, 0, 0, 0, 0] = some (1, 0) ∧ 0 < 86400000
    ∧ 1 * 86400000 + 0 + (11 * charUs base + 500) / 1000 = 86400002 ∧ 86400002 < 36525 * 86400000
    ∧ clockMs { atTen with now := 1000 } < 86400002 ∧ 86400002 ≤ clockMs { late with now := 1000 } := by
  unfold Hears Live Serves; decide

/-- A step from 10:00 to the start of the next day misses the moments of 11 to 23 o'clock and raises that of 0. -/
theorem test_step_over_slots : missedAtStep atTen.sck.slots 36000000 86400002
      = (List.range 13).map (fun h => 660 + 60 * h)
    ∧ (sheAfterStep 1000 36000000 86400002 true atTen).pend.map (·.slot) = some 0
    ∧ (sheAfterStep 1000 36000000 86430000 true atTen).engine = .callWait
    ∧ (sheAfterStep 1000 36000000 86430001 true atTen).engine = .idle := by
  decide +kernel

/-- A step forward from the start of the minute that ends the quiet override, its boundary not yet worked, ends the
override (R6). -/
theorem test_step_ends_the_override : let s : State := { atTen with sck := { atTen.sck with quiet := some 600 } }
    (stepClock 36600000 s).sck.quiet = none ∧ (stepClock 35000000 s).sck.quiet = none
      ∧ (stepClock 36600000 { s with sck := { s.sck with minuteDone := 600, quiet := some 611 } }).sck.quiet = some 611 := by
  decide +kernel

theorem witness_StrangersAreDenied : Hears 1000 5 base ∧ ZonesAtRest base ∧ ¬Serves 5 base
    ∧ parseSetTime [0, 1, 2, 0, 0, 0, 0] = some (1, 0) ∧ parsePlayNow [8, 0, 0, 0, 4] = some (8, 4)
    ∧ parseQuietUntil [8, 0, 0, 0, 0xFF, 0xFF] = some (8, 0xFFFF) ∧ parseStatusQuery [3, 0] = some (3, 0)
    ∧ parseRestart [8, 0, 0, 0] = some 8 ∧ Bits.mem (8 : Set32) (ownNo base) = true := by
  unfold Hears Live Serves ZonesAtRest; decide

theorem witness_AcceptedPlayNowAndQuietUntil : Hears 1000 32 base ∧ Serves 32 base
    ∧ Bits.mem (8 : Set32) (ownNo base) = true ∧ parsePlayNow [8, 0, 0, 0, 4] = some (8, 4)
    ∧ base.she.engine = .idle ∧ base.iml.station = .inService ∧ base.sck.grade ≤ 14
    ∧ parseQuietUntil [8, 0, 0, 0, 0x9F, 0x05] = some (8, 1439)
    ∧ parseQuietUntil [8, 0, 0, 0, 0xA0, 0x05] = some (8, 1440)
    ∧ parseQuietUntil [8, 0, 0, 0, 0xFF, 0xFF] = some (8, 0xFFFF) := by
  unfold Hears Live Serves; decide

theorem witness_AcceptedQueryAndRestart : Hears 1000 32 base ∧ ZonesAtRest base ∧ Serves 32 base
    ∧ parseStatusQuery [3, 10] = some (3, 10) ∧ parseStatusQuery [3, 11] = some (3, 11) ∧ base.iml.number = some 3
    ∧ Sends base ∧ base.bus.queue = [] ∧ parseRestart [8, 0, 0, 0] = some 8
    ∧ Bits.mem (8 : Set32) (ownNo base) = true ∧ base.iml.restart = .none ∧ inShow base = false := by
  unfold Hears Live Serves ZonesAtRest Sends; decide

theorem witness_RestartInAShow : let at_ := fun e => ({ inAShow e with
      bus := { base.bus with queue := [⟨0, .withdraw 600 .stopped⟩], nextId := 1 } } : State)
    let gone : State := { at_ .settling with she := { (at_ .settling).she with
      showRec := some ⟨600, 0, 4, .quiet, 10, Bits.ofList 32 [5], true⟩ } }
    (∀ e ∈ [.arming, .gateWait, .running, .settling], Hears 1000 32 (at_ e) ∧ ZonesAtRest (at_ e) ∧ Serves 32 (at_ e)
      ∧ (at_ e).iml.restart = .none ∧ Sends (at_ e) ∧ (at_ e).bus.queue.length < 7
      ∧ (at_ e).she.showRec.map (·.withdrawn) = some false)
    ∧ (∀ f ∈ (at_ .running).bus.queue, ∀ slot, f.content ≠ .withdraw slot .restart)
    ∧ (∀ f, figRec (at_ .running) f = none) ∧ parseRestart [8, 0, 0, 0] = some 8 ∧ inShow gone = true
    ∧ (∀ r, gone.she.showRec = some r → r.withdrawn = true) := by
  refine ⟨?_, ?_, noFigures, by decide, by decide, ?_⟩
  · unfold Hears Live Serves ZonesAtRest Sends; decide
  · intro f hf slot h
    cases List.mem_singleton.1 hf
    cases h
  · intro r h; cases h; rfl

theorem witness_FaultIsRecorded : let s : State := { base with flt := { base.flt with maskAdvisory := true } }
    base.bus.queue.length < 8 ∧ faultClass .slotLost = .advisory ∧ base.flt.maskAdvisory = false
      ∧ s.bus.queue.length < 8 ∧ Sends s ∧ s.flt.maskAdvisory = true := by
  unfold Sends; decide

theorem witness_FramesWithoutOwnerAndHello : let quiet : State := { base with sck := { base.sck with grade := 15 } }
    Hears 1000 5 base ∧ ZonesAtRest base ∧ ([0] : List Byte).length = 1 ∧ 1 ≤ (5 : Byte).toNat
      ∧ (5 : Byte).toNat ≤ 30 ∧ inShow base = false ∧ base.zon.reqs = [] ∧ base.bus.queue = [] ∧ Sends base
      ∧ base.sck.grade ≤ 14 ∧ Hears 1000 5 quiet ∧ ZonesAtRest quiet ∧ quiet.sck.grade = 15 := by
  unfold Hears Live ZonesAtRest Sends; decide

theorem witness_OwnNumberHeard : Live 1000 base ∧ base.bus.rxOn = true ∧ base.bus.tx ≠ .sending
    ∧ base.iml.station ≠ .starting ∧ base.iml.number = some (3 : Byte).toNat ∧ base.bus.dup = false := by
  unfold Live; decide

theorem witness_CharactersAndDiscards : let mid := fun (a : List Byte) => ({ base with
      bus := { base.bus with assembly := a } } : State)
    let off : State := { base with bus := { base.bus with rxOn := false } }
    (∀ s ∈ [mid [], mid [0x54], mid [0x54, 5], off], Live 1000 s) ∧ base.bus.rxOn = true ∧ base.bus.tx ≠ .sending
      ∧ off.bus.rxOn = false ∧ (mid [0x54]).bus.assembly ≠ [] ∧ ¬3 ≤ (mid [0x54]).bus.assembly.length
      ∧ (mid [0x54, 5]).bus.assembly.length = 2 ∧ 24 < (25 : Byte).toNat ∧ ¬24 < (24 : Byte).toNat
      ∧ ∀ e, BreakCause.gap ≠ .strayBreak e := by
  refine ⟨?_, rfl, by decide, rfl, by decide, by decide, rfl, by decide, by decide, ?_⟩
  · unfold Live; decide
  · intro e h; cases h

theorem witness_FirstAttempt : let f : TxFrame := ⟨1, .ready 600 0⟩
    let g : TxFrame := ⟨0, .hello 0⟩
    let rank := fun (x : TxFrame) => classRank (frameClass x.content)
    let s := fun now rot => ({ base with
      now := now, bus := { base.bus with queue := [g] ++ f :: [g], rotating := rot, assembly := [1] } } : State)
    let again := fun now => ({ s now false with
      now := now, bus := { (s now false).bus with tx := .retryWait, current := some 1, fails := 2 } } : State)
    (∀ n ∈ [879, 880, 1583, 1584], ∀ u ∈ [s n false, s n true, again n], Live n u ∧ Sends u ∧ u.bus.dup = false
        ∧ u.bus.idleFrom = 0 ∧ u.bus.queue = [g] ++ f :: [g])
      ∧ (∀ rot ∈ [false, true], (s 880 rot).bus.tx = .idle ∧ (s 880 rot).bus.rotating = rot)
      ∧ rank g < rank f ∧ rank g ≤ rank f ∧ rank g = 0 ∧ rank f = 2
      ∧ classRank (s 880 true).bus.pointer = 0 ∧ (0 + 2 - 2) % 3 < (0 + 2 - 0) % 3
      ∧ (again 1584).bus.tx = .retryWait ∧ currentFrame (again 1584) = some f
      ∧ (2 + ownNo base % 4 + 2 * 0) * 176 = 880 ∧ (2 + ownNo base % 4 + 2 * 2) * 176 = 1584 := by
  unfold Live Sends; decide

/-- The transmitter is on in LISTENING, off in STARTING and while muted (R159). -/
theorem test_transmitter_states : let s := fun st m => ({ base with
      iml := { base.iml with station := st, muted := m } } : State)
    transmitterOn (s .listening false) = true ∧ transmitterOn (s .starting false) = false
      ∧ transmitterOn (s .stopped false) = true ∧ transmitterOn (s .stopped true) = false := by
  decide

theorem witness_AttemptEnds : let f : TxFrame := ⟨7, .status 0 []⟩
    let s := sendingFrame (.status 0 [])
    let third : State := { s with bus := { s.bus with fails := 3 } }
    let breaking : State := { s with bus := { s.bus with tx := .breaking 10000 true } }
    Live 10000 s ∧ ZonesAtRest s ∧ s.bus.tx = .sending ∧ currentFrame s = some f ∧ s.bus.fails ≤ 2
      ∧ frameClass f.content = .routine ∧ s.bus.attemptAt + frameChars f.content * 176 ≤ 10000
      ∧ Live 10000 third ∧ third.bus.tx = .sending ∧ currentFrame third = some f ∧ 3 ≤ third.bus.fails
      ∧ Live 10000 breaking ∧ breaking.bus.tx = .breaking 10000 true := by
  unfold Live ZonesAtRest; decide

/-- BTX carries the start bit, the data bits from the least significant on, 0 in a break and the mark when idle
(R146); a RELEASE begins with 31h. -/
theorem test_line_level : let s := sendingFrame (.release 2)
    let at_ := fun t => transmitData { s with now := t }
    (txBytes s).head? = some 0x31 ∧ (List.range 11).map (fun i => at_ (16 * i)) = charBits 0x31 true
      ∧ transmitData { s with bus := { s.bus with tx := .breaking 20000 true } } = false
      ∧ transmitData base = true := by
  decide +kernel

theorem witness_LostFrames : let s : State := { base with
      iml := { base.iml with helloPending := true, helloLost := some 4 }
      gtu := { base.gtu with gate := some ⟨some 1, .readyQueued, 0, none, 0, none, none, none, none, some 4⟩ }
      zon := { base.zon with releaseLost := [(4, 2)], view := base.zon.view.set 1 (.held 3 none) }
      bus := { base.bus with frameEnds := 5 } }
    Live 1000 s ∧ 4 < s.bus.frameEnds ∧ s.bus.queue.length < 8
      ∧ (∃ g, s.gtu.gate = some g ∧ g.phase = .readyQueued ∧ g.readyLost = some 4)
      ∧ s.zon.releaseLost = [(4, 2)]
      ∧ (Bits.toList (2 : ZoneSet)).filter (fun z => zoneAt s z == .held (ownNo s) none) ≠ []
      ∧ s.iml.helloPending = true ∧ s.iml.helloLost = some 4 ∧ Sends s := by
  refine ⟨⟨rfl, by decide⟩, by decide, by decide, ⟨_, rfl, rfl, rfl⟩, rfl, by decide, rfl, rfl, .inl rfl⟩

/-- Eight frames, the fifth of them a CALL, the others STATUS. -/
def fullQueue : List TxFrame :=
  (List.range 8).map fun i => ⟨i, if i = 4 then .call 0 0 0 .quiet else .status 0 []⟩

theorem witness_FullQueue : let f : TxFrame := ⟨8, .ready 600 0⟩
    let low : TxFrame := ⟨9, .status 0 []⟩
    let rank := fun (g : TxFrame) => classRank (frameClass g.content)
    fullQueue.length = 8 ∧ (fullQueue.map (·.id)).Nodup
      ∧ (∃ g ∈ fullQueue, some 4 ≠ some g.id ∧ rank g < rank f)
      ∧ ∀ g ∈ fullQueue, some 4 ≠ some g.id → rank low ≤ rank g := by decide

/-- A station configuration: number 3, K 1, QUIET ceiling 64, no record but OFF ones. -/
def plainConfig : List Byte := [3, 0, 0, 0, 0, 0xFF, 1, 64] ++ List.replicate 58 0

/-- A calendar area of the default entry alone, without slots. -/
def plainCalendar : List Byte := [1, 0] ++ List.replicate 11 0 ++ [100] ++ List.replicate 8 0

/-- A byte of a list of zeros is 0, as is one past the end. -/
theorem byteAt_zeros (n i : Nat) : byteAt (List.replicate n 0) i = byteAt [] i := by
  simp only [byteAt, List.getD_eq_getElem?_getD, List.getElem?_replicate]
  split <;> rfl

/-- The checks find a path area of zeros as one that holds nothing. -/
theorem checks_zeros (n : Nat) (a c d : List Byte) :
    earlyChecks ⟨a, List.replicate n 0, c, d⟩ = earlyChecks ⟨a, [], c, d⟩ := by
  have h : Image.paths ⟨a, List.replicate n 0, c, d⟩ = Image.paths ⟨a, [], c, d⟩ := by
    simp only [Image.paths, parsePath, parseZones, le16, byteAt_zeros]
  unfold earlyChecks; rw [h]; rfl

theorem witness_AcceptedImage : let dir : List Byte := List.replicate 258 0
    let l : LoadRec := ⟨5, 1, some 0, none, plainConfig, List.replicate 2754 0, plainCalendar⟩
    let m : Image := ⟨l.config, l.path, l.calendar, dir⟩
    let s : State := { loading l 524 with iml := { Iml.reset with
      load := some l, header := some ⟨⟨0, 66⟩, ⟨0, 2754⟩, ⟨0, 22⟩, ⟨0, 258⟩, 0, 0⟩ } }
    Live 524 s ∧ s.iml.load = some l ∧ l.area = 5 ∧ l.started = some 0 ∧ (loadArea s 5).len = 258
      ∧ 0 + 524 ≤ 524 ∧ dir.length = 258 ∧ wordSum dir % 65536 = 0 ∧ (∃ b ∈ dir, b ≠ 0xFF)
      ∧ (∀ x ∈ earlyChecks m ++ lateChecks m, x.1 = true) ∧ badEntries m = [] := by
  refine ⟨⟨rfl, by decide⟩, rfl, rfl, rfl, rfl, by decide, List.length_replicate, by decide +kernel,
    ⟨0, List.mem_replicate.2 ⟨by decide, rfl⟩, by decide⟩, ?_, by decide +kernel⟩
  rw [checks_zeros]
  decide +kernel

/-- An acceptance at the end of 2099, ahead of its minute boundary, leaves the clock at the start of 2000, grade 15
(R1). -/
theorem test_acceptance_passes_the_century : let s : State := { base with
      sck := { base.sck with clkMs := 36525 * 86400000 + 5, clkAt := 1000, ageTimer := some 2000 } }
    let u := acceptClock ⟨plainConfig, [], plainCalendar, []⟩ s
    36525 * 86400000 ≤ clockMs s ∧ clockMs u = 5 ∧ u.sck.grade = 15 ∧ u.sck.ageTimer = none ∧ u.sck.minuteDone = 0 := by
  decide +kernel

theorem witness_RefusedImage : let dir : List Byte := List.replicate 258 0
    let c : List Byte := [3, 0, 0, 0, 0, 0xFF, 1, 0] ++ List.replicate 58 0
    let m : Image := ⟨c, List.replicate 2754 0, plainCalendar, dir⟩
    earlyChecks m ++ lateChecks m
      = [(true, 2), (true, 2), (true, 2), (true, 2), (true, 3), (true, 4), (true, 4)] ++ (false, 2) :: [(true, 2)]
      ∧ badEntries m = [] ∧ c ≠ [] ∧ byteAt c 2 ≤ 1
      ∧ (loading ⟨5, 1, some 0, none, c, [], []⟩ 524).she.engine = .idle := by
  refine ⟨?_, by decide +kernel, by decide, by decide, rfl⟩
  rw [checks_zeros]
  decide +kernel

theorem witness_Menu : (0 : Nat) < 32 ∧ 31 < 32 ∧ Bits.mem (menuOf base) 0 = true
    ∧ Bits.mem (menuOf base) 31 = false := by
  decide +kernel

theorem witness_CallDelay : let p : PendingSlot := ⟨600, some .hour, 0, none, some 1000⟩
    let q : PendingSlot := { p with slot := 2047, kind := none, requested := some 31 }
    let s := fun p => ({ base with she := { base.she with engine := .callWait, pend := some p } } : State)
    let shut : State := { s q with sck := { base.sck with level := .closed } }
    Live 1000 (s p) ∧ (s p).she.engine = .callWait ∧ (s p).she.pend = some p ∧ p.delay = some 1000
      ∧ (s p).bus.queue.length < 8 ∧ (s p).iml.station = .inService ∧ (s p).sck.grade ≤ 14
      ∧ (s p).sck.level ≠ .closed ∧ Live 1000 shut ∧ shut.sck.level = .closed ∧ q.slot = 2047
      ∧ { shut with she := { shut.she with pend := some p } }.sck.level = .closed ∧ p.slot ≠ 2047 := by
  unfold Live; decide

/-- The payload of a CALL for slot 600, programme 0, menu 0 alone, QUIET. -/
def callPayload (lo hi : Byte) : List Byte := [lo, hi, 0, 1, 0, 0, 0, 1]

theorem witness_Call : let s := atTen
    let waits := fun n => ({ s with she := { s.she with
      engine := .callWait, pend := some ⟨n, some .hour, 0, none, some 31000⟩ } } : State)
    let h := fun u => heardAt 1000 5 u
    Hears 1000 5 s ∧ parseCall (callPayload 0x58 2) = some ⟨600, 0, 1, .quiet⟩
      ∧ parseCall (callPayload 0xFF 7) = some ⟨2047, 0, 1, .quiet⟩ ∧ callAcceptable (h s) 2047 = true
      ∧ callAcceptable (h s) 600 = true ∧ s.she.engine = .idle ∧ Hears 1000 5 (waits 600)
      ∧ callAcceptable (h (waits 600)) 600 = true ∧ (waits 600).she.pend.map (·.slot) = some 600
      ∧ callAcceptable (h (waits 540)) 600 = true ∧ (waits 540).she.pend.map (·.slot) ≠ some 600
      ∧ callAcceptable (h (waits 540)) 601 = false ∧ Hears 1000 5 (inAShow .running)
      ∧ inShow (inAShow .running) = true
      ∧ ((0 * 86400000 + 600 * 60000 : Nat) - (clockMs s : Int)).natAbs < 43200000 := by
  unfold Hears Live; decide +kernel

theorem witness_CallOrMenuReadBack : let call : TxFrame := ⟨7, .call 600 0 1 .quiet⟩
    let menu : TxFrame := ⟨7, .menu 600 5 1⟩
    let g : Gather := ⟨7, 600, 0, 1, .quiet, none, [], none⟩
    let a : AnswerRec := ⟨600, 0, 5, 7, none⟩
    let s : State := { sendingFrame call.content with she := { base.she with engine := .calling, gather := some g } }
    let u : State := { sendingFrame menu.content with she := { base.she with engine := .answered, answer := some a } }
    (Live 10000 s ∧ ZonesAtRest s ∧ s.bus.tx = .sending ∧ currentFrame s = some call
      ∧ s.bus.attemptAt + frameChars call.content * 176 ≤ 10000 ∧ s.she.engine = .calling
      ∧ s.she.gather = some g ∧ g.callFrame = call.id ∧ g.window = none ∧ g.agree = none)
    ∧ (Live 10000 u ∧ ZonesAtRest u ∧ u.bus.tx = .sending ∧ currentFrame u = some menu
      ∧ u.bus.attemptAt + frameChars menu.content * 176 ≤ 10000 ∧ u.she.engine = .answered
      ∧ u.she.answer = some a ∧ a.menuFrame = menu.id) := by
  unfold Live ZonesAtRest; decide

/-- `base`, having answered a CALL of station 5 for slot 600, its wait until 1 ms. -/
def answered : State := { base with
  she := { base.she with engine := .answered, answer := some ⟨600, 0, 5, 7, some 1000⟩ } }

theorem witness_AgreeWait : Live 1000 answered ∧ answered.she.engine = .answered
    ∧ answered.she.answer = some ⟨600, 0, 5, 7, some 1000⟩ := by
  unfold Live; decide

/-- `base`, calling for slot 600, the window until 1 ms. -/
def calling : State := { base with
  she := { base.she with
    engine := .calling, pend := some ⟨600, some .hour, 0, none, none⟩
    gather := some ⟨7, 600, 0, 1, .quiet, some 1000, [(5, 1)], none⟩ } }

theorem witness_MenuRecorded : let s := calling
    Hears 1000 6 s ∧ parseMenu [0x58, 2, 3, 1, 0, 0, 0] = some ⟨600, 3, 1⟩
      ∧ parseMenu [0x58, 2, 4, 1, 0, 0, 0] = some ⟨600, 4, 1⟩
      ∧ s.she.gather = some ⟨7, 600, 0, 1, .quiet, some 1000, [(5, 1)], none⟩ ∧ s.she.engine = .calling
      ∧ 1 ≤ (6 : Byte).toNat ∧ (6 : Byte).toNat ≤ 30 ∧ ownNo s = 3 := by
  unfold Hears Live; decide

theorem witness_CallInCalling : let g : Gather := ⟨7, 600, 0, 1, .quiet, some 1000, [(5, 1)], none⟩
    let a : AgreeRec := ⟨8, 0, .quiet, 10, 0x28⟩
    (∀ x ∈ [g, { g with window := none }, { g with window := none, agree := some a }],
      let s : State := { calling with she := { calling.she with gather := some x } }
      Live 1000 s ∧ s.bus.rxOn = true ∧ s.bus.tx ≠ .sending ∧ s.iml.station ≠ .starting ∧ s.iml.number = some 3
        ∧ s.she.engine = .calling ∧ x.slot = 600)
    ∧ ownNo calling ≤ (5 : Byte).toNat ∧ (2 : Byte).toNat < ownNo calling := by
  unfold Live; decide

theorem witness_CallInAnswered : Hears 1000 2 answered ∧ Hears 1000 5 answered ∧ answered.she.engine = .answered
    ∧ answered.she.answer = some ⟨600, 0, 5, 7, some 1000⟩ ∧ 1 ≤ (2 : Byte).toNat ∧ (2 : Byte).toNat < 5 := by
  unfold Hears Live; decide

theorem witness_WindowEnd : let p : PendingSlot := ⟨600, some .hour, 0, none, none⟩
    let g : Gather := ⟨7, 600, 0, 1, .quiet, some 1000, [(5, 1)], none⟩
    Live 1000 calling ∧ calling.she.engine = .calling ∧ calling.she.pend = some p ∧ calling.she.gather = some g
      ∧ g.window = some 1000 ∧ calling.bus.queue.length < 8
      ∧ Bits.mem g.menu 0 = true ∧ ∀ a ∈ g.answers, Bits.mem a.2 0 = true := by
  unfold Live; decide

/-- `answered` with programme 4 on its menu. -/
def canPlay : State := { answered with csq := { answered.csq with
  directory := answered.csq.directory.set 4 ⟨true, 1, true, 0, 0, 1000, false⟩ } }

theorem witness_OwnReadbacks : let agree : Content := .agree 600 4 .quiet 10 0x28
    let ready : Content := .ready 600 1
    let go := fun (m : Set32) => Content.go 600 1 m
    let claim : Content := .claim false 2
    let release : Content := .release 2
    let r : ShowRec := ⟨600, 0, 4, .quiet, 10, 0x28, false⟩
    let g : GateRec := ⟨some 1, .readyQueued, 0x20, none, 0, none, none, some 7, none, none⟩
    let sends := fun (c : Content) e (g : GateRec) => ({ sendingFrame c with
      she := ⟨e, none, none, none, some r⟩, gtu := ⟨some g, 0, 15⟩ } : State)
    let agreed := fun (q : Csq) => ({ sendingFrame agree with
      csq := q, she := { base.she with
        engine := .calling, pend := some ⟨600, some .hour, 0, none, none⟩
        gather := some ⟨6, 600, 0, 1, .quiet, none, [(5, 17)], some ⟨7, 4, .quiet, 10, 0x28⟩⟩ } } : State)
    let freed := fun (s : State) => { s with now := 10000, bus := { s.bus with
      tx := .idle, current := none, fails := 0, assembly := [], lastChar := 10000, idleFrom := 10000
      frameEnds := s.bus.frameEnds + 1, queue := s.bus.queue.filter fun x => x.id != 7 } }
    let taken := { g with phase := .ready, readySet := 0x28, readyFrame := none }
    let claims : State := { sendingFrame claim with
      zon := { base.zon with view := base.zon.view.set 1 (.pending 3 7 none (some 6)) } }
    (∀ x ∈ [(agree, agreed canPlay.csq), (agree, agreed base.csq), (ready, sends ready .gateWait g),
        (ready, sends ready .gateWait { g with readySet := 0 }), (go 8, sends (go 8) .gateWait taken),
        (go 8, sends (go 8) .gateWait { taken with phase := .released }), (claim, claims),
        (release, sendingFrame release)],
      Live 10000 x.2 ∧ ZonesAtRest x.2 ∧ x.2.bus.tx = .sending ∧ currentFrame x.2 = some ⟨7, x.1⟩
        ∧ x.2.bus.attemptAt + frameChars x.1 * (if x.2.bus.fast then 44 else 176) ≤ 10000)
    ∧ Bits.mem (menuOf (freed (agreed canPlay.csq))) 4 = true ∧ Bits.mem (menuOf (freed (agreed base.csq))) 4 = false
    ∧ (agreed base.csq).bus.queue.length < 8 ∧ ownNo base = 3 ∧ Bits.subset r.members (Bits.insert 0x20 3) = true
    ∧ Bits.subset r.members (Bits.insert 0 3) = false ∧ Bits.mem r.members 3 = true ∧ Bits.mem (8 : Set32) 3 = true
    ∧ (List.range 32).filter (fun n => Bits.mem r.members n && !Bits.mem (8 : Set32) n && n != 3) = [5]
    ∧ zoneAt claims 1 = .pending (ownNo claims) 7 none (some 6) := by
  unfold Live ZonesAtRest; decide +kernel

theorem witness_Agree : let p := fun (m : Byte) => ([0x58, 2, 4, 1, 10, m, 0, 0, 0] : List Byte)
    Hears 1000 5 canPlay ∧ parseAgree (p 0x28) = some ⟨600, 4, .quiet, 10, 0x28⟩
      ∧ parseAgree (p 0x20) = some ⟨600, 4, .quiet, 10, 0x20⟩
      ∧ canPlay.she.engine = .answered ∧ canPlay.she.answer = some ⟨600, 0, 5, 7, some 1000⟩
      ∧ Bits.mem (0x28 : Set32) (ownNo canPlay) = true ∧ Bits.mem (menuOf (heardAt 1000 5 canPlay)) 4 = true
      ∧ Bits.mem (0x20 : Set32) (ownNo canPlay) = false
      ∧ (Hears 1000 5 answered ∧ Bits.mem (menuOf (heardAt 1000 5 answered)) 4 = false ∧ answered.bus.queue.length < 8)
      ∧ (Hears 1000 5 base ∧ base.she.engine = .idle ∧ base.sck.lastSlot = none ∧ Sends base
        ∧ base.bus.queue.length < 8) := by
  unfold Hears Live Sends; decide +kernel

/-- `inAShow`, at gate 1 in a phase, station 3 ready since 0. -/
def atGate (ph : Phase) : State := { inAShow .gateWait with
  gtu := ⟨some ⟨some 1, ph, 8, none, 0, some 1000, none, some 7, none, none⟩, 254, 15⟩ }

theorem witness_Withdraw : let s := atGate .ready
    let r : ShowRec := ⟨600, 0, 4, .quiet, 10, Bits.ofList 32 [3, 5], false⟩
    Hears 1000 5 s ∧ parseWithdraw [0x58, 2, 2] = some 600 ∧ 1 ≤ (5 : Byte).toNat ∧ (5 : Byte).toNat ≤ 30
      ∧ inShow s = true ∧ s.she.showRec = some r ∧ r.slot = 600 ∧ Bits.mem r.members (5 : Byte).toNat = true
      ∧ Hears 1000 6 s ∧ Bits.mem r.members (6 : Byte).toNat = false := by
  unfold Hears Live; decide

theorem witness_MembersGone : let r : ShowRec := ⟨600, 0, 4, .quiet, 10, Bits.ofList 32 [3, 5], false⟩
    let s : State := { atGate .ready with
      bus := { base.bus with peers := base.bus.peers.set 5 (.present 1000) } }
    Hears 1000 5 s ∧ ZonesAtRest s ∧ inShow s = true ∧ s.she.showRec = some r ∧ Bits.mem r.members 5 = true
      ∧ s.zon.reqs = [] ∧ s.bus.queue = [] ∧ Sends s ∧ s.sck.grade ≤ 14
      ∧ s.bus.peers.getD 5 .unknown = .present 1000 ∧ 5 ≠ ownNo s := by
  unfold Hears Live ZonesAtRest Sends; decide

theorem witness_WithdrawReadBack : let f : TxFrame := ⟨7, .withdraw 600 .stopped⟩
    let s := sendingFrame f.content
    Live 10000 s ∧ ZonesAtRest s ∧ s.bus.tx = .sending ∧ currentFrame s = some f
      ∧ s.bus.attemptAt + 7 * 176 ≤ 10000 := by
  unfold Live ZonesAtRest; decide

theorem witness_Settled : let s := inAShow .settling
    let rings : State := { s with bel := { s.bel with run := s.bel.run.set 12 ⟨.idle, 0, .upHeld⟩ } }
    Live 1000 s ∧ s.she.engine = .settling ∧ s.bel.strikes = [] ∧ (∀ r ∈ s.bel.run, r.damper = .down)
      ∧ (∀ r ∈ s.fig.run, r.state ∉ [.waitZone, .moving, .paused, .homing])
      ∧ Live 1000 rings ∧ rings.she.engine = .settling ∧ ¬∀ r ∈ rings.bel.run, r.damper = .down := by
  unfold Live; decide

theorem witness_GateTimers : let g : GateRec := ⟨some 0, .standing, 0, some 1000, 0, none, none, none, none, none⟩
    let s : State := { inAShow .arming with gtu := ⟨some g, 0, 15⟩ }
    let held : State := { s with csq := { s.csq with parts := some [] } }
    let u := atGate .ready
    (Live 1000 held ∧ held.gtu.gate = some g ∧ g.number = some 0 ∧ g.phase = .standing ∧ g.leadIn = some 1000
      ∧ held.bus.queue.length < 8 ∧ held.csq.parts ≠ none ∧ held.csq.play.pos = none)
    ∧ (Live 1000 s ∧ s.gtu.gate = some g ∧ s.bus.queue.length < 8 ∧ s.csq.parts = none)
    ∧ (Live 1000 u ∧ u.gtu.gate = some ⟨some 1, .ready, 8, none, 0, some 1000, none, some 7, none, none⟩
      ∧ u.she.showRec = some ⟨600, 0, 4, .quiet, 10, Bits.ofList 32 [3, 5], false⟩ ∧ u.bus.queue.length < 8) := by
  unfold Live; decide

theorem witness_Ready : let g : GateRec := ⟨some 1, .ready, 8, none, 0, some 1000, none, some 7, none, none⟩
    let r : ShowRec := ⟨600, 0, 4, .quiet, 10, Bits.ofList 32 [3, 5], false⟩
    let s := atGate .ready
    Hears 1000 5 s ∧ parseReady [0x58, 2, 1] = some (600, 1) ∧ parseReady [0x58, 2, 255] = some (600, 255)
      ∧ parseReady [0x59, 2, 1] = some (601, 1) ∧ s.gtu.gate = some g ∧ s.she.showRec = some r
      ∧ Bits.mem r.members (5 : Byte).toNat = true ∧ g.number ≠ some 255 ∧ 601 ≠ r.slot
      ∧ Bits.mem g.readySet (5 : Byte).toNat = false := by
  unfold Hears Live; decide

theorem witness_Go : let g : GateRec := ⟨some 1, .ready, 8, none, 0, some 1000, none, some 7, none, none⟩
    let r : ShowRec := ⟨600, 0, 4, .quiet, 10, Bits.ofList 32 [3, 5], false⟩
    let s := atGate .ready
    Hears 1000 5 s ∧ ZonesAtRest s ∧ parseGo [0x58, 2, 1, 8, 0, 0, 0] = some ⟨600, 1, 8⟩ ∧ s.gtu.gate = some g
      ∧ s.she.showRec = some r ∧ g.phase = .ready ∧ g.number = some 1 ∧ r.slot = 600
      ∧ Bits.mem r.members (5 : Byte).toNat = true ∧ Bits.mem (8 : Set32) (ownNo s) = true
      ∧ parseGo [0x58, 2, 0, 8, 0, 0, 0] = some ⟨600, 0, 8⟩ ∧ g.number ≠ some 0 := by
  unfold Hears Live ZonesAtRest; decide

theorem witness_GoExcludes : let g : GateRec := ⟨some 1, .ready, 8, none, 0, some 1000, none, some 7, none, none⟩
    let r : ShowRec := ⟨600, 0, 4, .quiet, 10, Bits.ofList 32 [3, 5], false⟩
    let s := atGate .ready
    let early := atGate .standing
    let ending := inAShow .settling
    (∀ u ∈ [s, early, ending], Hears 1000 5 u ∧ ZonesAtRest u ∧ u.she.showRec = some r ∧ Sends u
      ∧ u.bus.queue.length < 6)
    ∧ parseGo [0x58, 2, 1, 0x20, 0, 0, 0] = some ⟨600, 1, 0x20⟩ ∧ s.gtu.gate = some g
    ∧ Bits.mem (0x20 : Set32) (ownNo s) = false ∧ Bits.mem r.members (5 : Byte).toNat = true ∧ s.she.engine = .gateWait
    ∧ early.gtu.gate = some { g with phase := .standing } ∧ (∀ f, figRec s f = none)
    ∧ (List.range 32).filter (fun n => Bits.mem r.members n && !Bits.mem (0x20 : Set32) n && n != ownNo s) = []
    ∧ ending.gtu.gate = none ∧ ending.she.engine = .settling ∧ r.withdrawn = false := by
  refine ⟨?_, by decide, rfl, by decide, by decide, rfl, rfl, noFigures, by decide, rfl, rfl, rfl⟩
  unfold Hears Live ZonesAtRest Sends; decide

theorem witness_Settle : let g : GateRec := ⟨some 1, .released, 0, none, 0, none, some 1000, none, none, none⟩
    let s : State := { inAShow .gateWait with
      gtu := ⟨some g, 0, 15⟩
      csq := { base.csq with
        play := ⟨none, 1, none, none⟩, lead := ⟨none, 1, none, none⟩
        parts := some [⟨120, 4, false, 0, 96, 0, 0, ⟨0, 0⟩, ⟨0, 0⟩, ⟨0, 0⟩⟩] } }
    let u : State := { s with
      now := 1000, she := { s.she with engine := .running }
      gtu := { s.gtu with gate := some { g with phase := .ahead, settle := none } }
      csq := { s.csq with
        running := true, anchorReal := 1000, anchorTau := s.csq.tau, gateAfter := none
        seg := { s.csq.seg with tau0 := s.csq.tau, tick0 := s.csq.gateTick } } }
    Live 1000 s ∧ ZonesAtRest s ∧ s.gtu.gate = some g ∧ g.phase = .released ∧ g.settle = some 1000
      ∧ s.csq.play.pos = none ∧ s.csq.lead.pos = none ∧ s.csq.slotA = CueSlot.vacant
      ∧ s.csq.slotB = CueSlot.vacant ∧ s.csq.wakeups = [] ∧ (∀ c ∈ s.chr.channels, c.kind ≠ .strobe)
      ∧ partOver u = false := by
  unfold Live ZonesAtRest; decide

/-- A programme header: one part, 120 beats a minute, 4 beats to the bar, 960 ticks, the cues 0 to 31. -/
def oneHeader : List Byte :=
  [1, 0, 120, 4, 0, 0, 0xC0, 3, 0, 0, 0, 0, 0, 0, 0, 32, 0] ++ List.replicate 185 0 ++ [0xC7, 0xD7]

/-- The part of `oneHeader`. -/
def onePart : Part := ⟨120, 4, false, 0, 960, 0, 0, ⟨0, 32⟩, ⟨0, 0⟩, ⟨0, 0⟩⟩

theorem witness_HeaderRead : let r : PortRead := ⟨.header, 1000, 1, 0⟩
    let g : GateRec := ⟨some 0, .standing, 0, some 1500000, 0, none, none, none, none, none⟩
    let s : State := { inAShow .arming with
      gtu := ⟨some g, 0, 15⟩, csq := { base.csq with port := [r] }
      iml := { base.iml with header := some ⟨⟨0, 66⟩, ⟨0, 2754⟩, ⟨0, 22⟩, ⟨0, 258⟩, 65536, 32⟩ } }
    Live 1000 s ∧ ZonesAtRest s ∧ s.csq.port = [r] ∧ r.use = .header ∧ r.addr + 204 ≤ 16777216
      ∧ r.started + 416 ≤ 1000 ∧ oneHeader.length = 204 ∧ wordSum oneHeader % 65536 = 0
      ∧ (∃ b ∈ oneHeader, b ≠ 0xFF) ∧ parseHeader ((s.iml.header.map (·.libSize)).getD 0) oneHeader = some [onePart]
      ∧ firstPos [onePart] = some Pos.first ∧ s.gtu.gate = some g ∧ g.phase = .standing ∧ g.number = some 0
      ∧ g.leadIn ≠ none ∧ r.attempt = 1 ∧ (List.replicate 204 (0xFF : Byte)).length = 204
      ∧ ∀ b ∈ List.replicate 204 (0xFF : Byte), b = 0xFF := by
  unfold Live ZonesAtRest; decide +kernel

theorem witness_HeaderBad : let r : PortRead := ⟨.header, 1000, 2, 0⟩
    let s := fun r => ({ inAShow .arming with csq := { base.csq with port := [r] } } : State)
    let zeros : List Byte := List.replicate 204 0
    (∀ x ∈ [r, { r with attempt := 1 }], Live 1000 (s x) ∧ ZonesAtRest (s x) ∧ (s x).csq.port = [x]
      ∧ x.use = .header ∧ x.addr + 204 ≤ 16777216 ∧ x.started + 416 ≤ 1000 ∧ (s x).she.engine = .arming ∧ Sends (s x)
      ∧ (s x).bus.queue.length < 6)
    ∧ (∀ f, figRec (s r) f = none) ∧ zeros.length = 204 ∧ (∃ b ∈ zeros, b ≠ 0xFF) ∧ wordSum zeros % 65536 = 0
    ∧ parseHeader (((s r).iml.header.map (·.libSize)).getD 0) zeros = none
    ∧ wordSum (1 :: List.replicate 203 0) % 65536 ≠ 0 := by
  refine ⟨?_, noFigures, List.length_replicate, ⟨0, List.mem_replicate.2 ⟨by decide, rfl⟩, by decide⟩,
    by decide +kernel, by decide +kernel, by decide +kernel⟩
  unfold Live ZonesAtRest Sends; decide

theorem witness_BlockRead : let r : PortRead := ⟨.slotA 1, 1000, 1, 0⟩
    let g0 : GateRec := ⟨some 0, .standing, 0, none, 0, none, none, none, none, none⟩
    let s := fun r e g => ({ inAShow e with
      gtu := ⟨some g, 0, 15⟩
      csq := { base.csq with
        port := [r], parts := some [onePart], play := ⟨some Pos.first, 1, none, some 1⟩
        lead := ⟨some Pos.first, 1, none, some 1⟩, slotA := ⟨.filling, 1, Pos.first, 0, []⟩ } } : State)
    let shows := [s r .arming g0, s r .arming { g0 with leadIn := some 1500000 },
      s r .gateWait { g0 with phase := .readyQueued }, s { r with attempt := 2 } .arming g0,
      s { r with attempt := 2 } .gateWait { g0 with phase := .readyQueued }]
    let zeros : List Byte := List.replicate 258 0
    let bad : List Byte := 1 :: List.replicate 257 0
    (∀ u ∈ shows, Live 1000 u ∧ ZonesAtRest u ∧ u.csq.running = false ∧ u.csq.slotA.state = .filling
      ∧ u.csq.slotA.item = 1 ∧ u.csq.builtin = false ∧ u.csq.play.item = 1 ∧ u.csq.play.pos ≠ none
      ∧ u.csq.parts ≠ none ∧ Sends u ∧ u.bus.queue.length < 6)
    ∧ (∀ f, figRec (s { r with attempt := 2 } .arming g0) f = none)
    ∧ r.use = .slotA 1 ∧ r.addr + 258 ≤ 16777216 ∧ r.started + 524 ≤ 1000
    ∧ zeros.length = 258 ∧ byteSum (zeros.take 256) % 65536 = le16 zeros 256 ∧ bad.length = 258
    ∧ byteSum (bad.take 256) % 65536 ≠ le16 bad 256
    ∧ let run : State := { s r .running { g0 with number := some 1, phase := .ahead } with
        csq := { (s r .running g0).csq with running := true } }
      Live 1000 run ∧ run.csq.running = true ∧ run.csq.port = [r] ∧ run.csq.slotA.state = .filling := by
  refine ⟨?_, noFigures, ?_⟩
  · unfold Live ZonesAtRest Sends; decide
  · unfold Live; decide +kernel

theorem witness_SecondReadSilent : let bytes := fun n => List.replicate n (0xFF : Byte)
    let head : State := { inAShow .arming with csq := { base.csq with port := [⟨.header, 1000, 2, 0⟩] } }
    let block := fun e => ({ inAShow e with csq := { base.csq with
      port := [⟨.slotA 1, 1000, 2, 0⟩], slotA := ⟨.filling, 1, Pos.first, 0, []⟩ } } : State)
    (∀ s ∈ [head, block .arming, block .gateWait, block .running], Live 1000 s ∧ ZonesAtRest s
      ∧ s.iml.station = .inService ∧ s.bus.queue.length < 6 ∧ s.she.engine ∈ [.arming, .gateWait, .running])
    ∧ (bytes 204).length = 204 ∧ (bytes 258).length = 258
    ∧ (∀ b ∈ bytes 204, b = 0xFF) ∧ (∀ b ∈ bytes 258, b = 0xFF)
    ∧ (∀ f, figRec head f = none) ∧ ∀ e f, figRec (block e) f = none := by
  refine ⟨?_, List.length_replicate, List.length_replicate, fun _ h => (List.mem_replicate.1 h).2,
    fun _ h => (List.mem_replicate.1 h).2, noFigures, fun _ => noFigures⟩
  unfold Live ZonesAtRest; decide

/-- A block of 32 TEMPO cues of 120 at tick 0, and its sum. -/
def tempoBlock : List Byte := (List.replicate 32 [6, 0, 0, 120, 0, 0, 0, 0]).flatten ++ [0xC0, 0x0F]

/-- The first block of the programme arrives after the lead-in: the station is ready at gate 0 (R40, R43). -/
theorem test_first_block_makes_ready : let g0 : GateRec := ⟨some 0, .standing, 0, none, 0, none, none, none, none, none⟩
    let s : State := { inAShow .arming with
      gtu := ⟨some g0, 0, 15⟩
      csq := { base.csq with
        port := [⟨.slotA 1, 1000, 1, 0⟩], parts := some [onePart], play := ⟨some Pos.first, 1, none, some 1⟩
        lead := ⟨some Pos.first, 1, none, some 1⟩, slotA := ⟨.filling, 1, Pos.first, 0, []⟩ } }
    ∃ u, exec (.blockReadDone 1000 tempoBlock) s = .next u ∧ u.she.engine = .gateWait
      ∧ u.bus.queue = [⟨0, .ready 600 0⟩] ∧ u.csq.slotA.state = .ready ∧ u.csq.play.waiting = none := by
  refine ⟨_, rfl, ?_⟩
  decide +kernel

/-- `inAShow`, its beat clock running since 0 in `onePart`, both pointers at its first cue, which is `q`. -/
def playing (q : Cue) : State := { inAShow .running with
  csq := { base.csq with
    parts := some [onePart], play := ⟨some Pos.first, 1, none, none⟩, lead := ⟨some Pos.first, 1, none, none⟩
    slotA := ⟨.ready, 1, Pos.first, 0, q :: List.replicate 31 ⟨1, 900, 12, 64, 0, 0⟩⟩
    running := true, seg := ⟨0, 0, 0, 120⟩ }
  gtu := ⟨some ⟨some 1, .ahead, 0, none, 0, none, none, none, none, none⟩, 0, 15⟩
  chr := { base.chr with channels := (base.chr.channels.set 16 ⟨.lamp, .bar⟩).set 1 ⟨.strobe, .beat⟩ } }

theorem witness_DueCue : let lamp : Cue := ⟨5, 0, 16, 255, 0, 0⟩
    let tempo : Cue := ⟨6, 0, 240, 0, 0, 0⟩
    let later : Cue := ⟨5, 96, 16, 255, 0, 0⟩
    (∀ q ∈ [lamp, tempo], let s := playing q
      Live 1000 s ∧ ZonesAtRest s ∧ s.csq.running = true ∧ cueView s s.csq.play = .cue Pos.first q
        ∧ cueValid s (partsOf s) Pos.first s.csq.play.prev q = true ∧ Pos.first.part = s.csq.seg.part
        ∧ tauOf s.csq.seg (cueTick (partsOf s) Pos.first q) ≤ showTime { s with now := 1000 }
        ∧ pendingGate { s with now := 1000 } Pos.first (cueTick (partsOf s) Pos.first q) = none)
    ∧ let s := playing later
      cueView s s.csq.play = .cue Pos.first later
        ∧ cueValid s (partsOf s) Pos.first s.csq.play.prev later = true
        ∧ showTime { s with now := 1000 } < tauOf s.csq.seg (cueTick (partsOf s) Pos.first later) := by
  unfold Live ZonesAtRest; decide +kernel

/-- `playing` a cue, bell 12 with a damper, figure 6 at `f`, and the path 1 of one waypoint, in zone 1 if named. -/
def scene (q : Cue) (f : FigRun) (zones : List (Nat × Nat)) : State := { playing q with
  bel := { base.bel with bells := base.bel.bells.set 12 (some ⟨1, some 3, [], 0, 0, 0, 0, 0, 20, 500, true⟩) }
  fig := { base.fig with
    figs := base.fig.figs.set 6 (some ⟨1, 2, 1, 2, some 3, 4000, 2000, 15, 300, 20, 400, 30, []⟩)
    run := base.fig.run.set 6 f, paths := base.fig.paths.set 1 ⟨[(1000, 80)], zones, []⟩ } }

theorem witness_DampAndMove : let fig := fun st => ({ FigRun.reset with state := st } : FigRun)
    let cues : List Cue := [⟨2, 0, 12, 1, 0, 0⟩, ⟨2, 0, 12, 2, 0, 0⟩, ⟨4, 0, 6, 1, 100, 0⟩, ⟨4, 0, 6, 2, 100, 0⟩]
    (∀ q ∈ cues, ∀ f ∈ [fig .parked, fig .moving, fig .jammed], let s := scene q f [(1, 1)]
      Live 1000 s ∧ ZonesAtRest s ∧ s.csq.running = true ∧ cueView s s.csq.play = .cue Pos.first q
        ∧ cueValid s (partsOf s) Pos.first s.csq.play.prev q = true ∧ Pos.first.part = s.csq.seg.part
        ∧ tauOf s.csq.seg (cueTick (partsOf s) Pos.first q) ≤ showTime { s with now := 1000 }
        ∧ pendingGate { s with now := 1000 } Pos.first (cueTick (partsOf s) Pos.first q) = none
        ∧ s.gtu.gate.map (·.phase) = some .ahead ∧ figRun s 6 = f ∧ s.zon.reqs = []
        ∧ (s.fig.paths.getD 1 PathRec.empty).waypoints = [(1000, 80)]
        ∧ (s.fig.paths.getD 2 PathRec.empty).waypoints = []) := by
  unfold Live ZonesAtRest; decide +kernel

/-- A MOVE of a PARKED figure asks for the run's zones; they are free and claimed at once (R100, R102, R121). -/
theorem test_move_claims : ∃ u, exec (.cueDue 1000)
      (scene ⟨4, 0, 6, 1, 100, 0⟩ { FigRun.reset with state := .parked } [(1, 1)])
      = .next u ∧ (figRun u 6).state = .waitZone ∧ u.bus.queue.map (·.content) = [.claim false 2] := by
  refine ⟨_, rfl, ?_⟩
  decide +kernel

theorem witness_GateCue : let q : Cue := ⟨7, 0, 1, 0, 0, 0⟩
    let s := playing q
    Live 1000 s ∧ ZonesAtRest s ∧ s.csq.running = true ∧ cueView s s.csq.play = .cue Pos.first q
      ∧ cueValid s (partsOf s) Pos.first s.csq.play.prev q = true ∧ Pos.first.part = s.csq.seg.part
      ∧ tauOf s.csq.seg (cueTick (partsOf s) Pos.first q) ≤ showTime { s with now := 1000 } ∧ q.kind = 7
      ∧ q.a ≠ 0 ∧ Pos.first ∉ s.csq.gatesDone ∧ s.csq.play.pos = some Pos.first ∧ s.bus.queue.length < 8
      ∧ s.gtu.gate = some ⟨some 1, .ahead, 0, none, 0, none, none, none, none, none⟩ ∧ q.a = 1 := by
  unfold Live ZonesAtRest; decide +kernel

/-- The cue behind a GATE cue keeps both pointers: a LAMP cue the play pointer, the walk's end the lead pointer. -/
theorem witness_RestBehindAGate : let q : Cue := ⟨7, 0, 1, 0, 0, 0⟩
    let lamp : Cue := ⟨5, 0, 16, 255, 0, 0⟩
    let s : State := { playing q with csq := { (playing q).csq with
      slotA := { (playing q).csq.slotA with cues := q :: List.replicate 31 lamp }, lead := ⟨none, 2, none, none⟩ } }
    let c := s.csq.play.step (partsOf s) (some q.tick)
    s.csq.running = true ∧ cueView s s.csq.play = .cue Pos.first q ∧ cueView s c = .cue { Pos.first with idx := 1 } lamp
      ∧ cueValid s (partsOf s) { Pos.first with idx := 1 } c.prev lamp = true ∧ cueView s s.csq.lead = .ended
      ∧ c.item = 1 ∧ s.csq.slotA.item = 1 ∧ s.csq.slotB.state = .empty := by
  decide +kernel

/-- A GATE cue is moved past as it is taken, and the strikes behind it are stepped over while the clock stands: the
play pointer comes to the walk's end (R68). -/
theorem test_gate_is_moved_past : ∃ u, exec (.cueDue 1000) (playing ⟨7, 0, 1, 0, 0, 0⟩) = .next u
    ∧ u.csq.running = false ∧ u.she.engine = .gateWait ∧ u.csq.play.pos = none := by
  refine ⟨_, rfl, ?_⟩
  decide +kernel

/-- Standing at gate 1 behind the cue `q`, the next cue in slot A, item 1, in a state. -/
def standing (q : Cue) (st : SlotState) (f : FigRun) : State := { playing q with
  she := { (playing q).she with engine := .gateWait }
  gtu := ⟨some ⟨some 1, .standing, 0, none, 0, none, none, none, none, none⟩, 0, 15⟩
  csq := { (playing q).csq with
    running := false, slotA := { (playing q).csq.slotA with state := st }
    gateAfter := some (some { Pos.first with idx := 1 }, 1) }
  fig := { base.fig with run := base.fig.run.set 6 f } }

theorem witness_GateCueSkipped : ∀ q ∈ ([⟨7, 0, 2, 0, 0, 0⟩, ⟨7, 0, 0, 0, 0, 0⟩] : List Cue), ∀ n ∈ [some 1, none],
    let g : GateRec := ⟨n, .ahead, 0, none, 0, none, none, none, none, none⟩
    let s : State := { playing q with gtu := ⟨some g, 0, 15⟩ }
    Live 1000 s ∧ s.csq.running = true ∧ cueView s s.csq.play = .cue Pos.first q
      ∧ cueValid s (partsOf s) Pos.first s.csq.play.prev q = true ∧ Pos.first.part = s.csq.seg.part
      ∧ tauOf s.csq.seg (cueTick (partsOf s) Pos.first q) ≤ showTime { s with now := 1000 } ∧ q.kind = 7
      ∧ Pos.first ∉ s.csq.gatesDone ∧ s.csq.play.pos = some Pos.first ∧ (q.a = 0 ∨ g.number ≠ some q.a) := by
  unfold Live; decide +kernel

theorem witness_UnreadCueDue : ∀ l ∈ [[], [1]], let s : State := { playing ⟨5, 0, 16, 255, 0, 0⟩ with
      csq := { (playing ⟨5, 0, 16, 255, 0, 0⟩).csq with
        slotA := ⟨.filling, 1, Pos.first, 0, []⟩, underruns := l } }
    Live 1000 s ∧ ZonesAtRest s ∧ s.csq.running = true ∧ cueView s s.csq.play = .unread
      ∧ cueView s s.csq.lead = .unread ∧ s.csq.play.item = 1 := by
  unfold Live ZonesAtRest; decide +kernel

theorem witness_ReadyAtAGate : let q : Cue := ⟨7, 0, 1, 0, 0, 0⟩
    let g : GateRec := ⟨some 1, .standing, 0, none, 0, none, none, none, none, none⟩
    let moves : FigRun := { FigRun.reset with showMove := true }
    MeetsR42 g (standing q .ready FigRun.reset) ∧ MeetsR42 g (standing q .bad FigRun.reset)
      ∧ ¬MeetsR42 g (standing q .filling FigRun.reset) ∧ ¬MeetsR42 g (standing q .ready moves)
      ∧ (∀ s ∈ [standing q .ready FigRun.reset, standing q .ready moves], s.gtu.gate = some g ∧ s.bus.queue = [])
      ∧ (∀ r ∈ (playing q).fig.run, r.showMove = false)
      ∧ (let after := (playing q).csq.play.step (partsOf (playing q)) (playing q).csq.play.prev
        after.pos ≠ none ∧ (slotOf (playing q) after.item).map (·.state) = some .ready)
      ∧ let s : State := { playing q with fig := { base.fig with run := base.fig.run.set 6 moves } }
        ¬∀ r ∈ s.fig.run, r.showMove = false := by
  refine ⟨⟨rfl, ⟨0, rfl⟩, by decide, .inr (.inl ⟨_, rfl, .inl rfl⟩)⟩,
    ⟨rfl, ⟨0, rfl⟩, by decide, .inr (.inl ⟨_, rfl, .inr rfl⟩)⟩,
    ?_, ?_, by decide, by decide, by decide +kernel, by decide⟩
  · rintro ⟨-, -, -, h | ⟨sl, h, h2⟩ | h⟩
    · cases h
    · cases h; revert h2; decide
    · revert h; decide
  · rintro ⟨-, -, h, -⟩
    revert h; decide

/-- The station at gate 1 with no MOVE open and the next cue's slot READY queues its READY (R42, R43); with a MOVE
open it does not. -/
theorem test_gate_readiness : let q : Cue := ⟨7, 0, 1, 0, 0, 0⟩
    (gateCheck (standing q .ready FigRun.reset)).bus.queue.map (·.content) = [.ready 600 1]
    ∧ (gateCheck (standing q .ready { FigRun.reset with showMove := true })).bus.queue = [] := by
  decide +kernel

/-- A block that comes at a standing gate meets R42 for it. -/
theorem witness_BlockMakesReady : let q : Cue := ⟨7, 0, 1, 0, 0, 0⟩
    let s : State := { standing q .filling FigRun.reset with
      csq := { (standing q .filling FigRun.reset).csq with port := [⟨.slotA 1, 1000, 1, 0⟩] } }
    let filled : State := { s with csq := { s.csq with
      port := [], slotA := { s.csq.slotA with state := .ready, cues := List.replicate 32 ⟨0, 0, 0, 0, 0, 0⟩ } } }
    Live 1000 s ∧ ZonesAtRest s ∧ s.csq.running = false ∧ s.csq.slotA.state = .filling ∧ s.csq.slotA.item = 1
      ∧ s.bus.queue = [] ∧ s.gtu.gate = some ⟨some 1, .standing, 0, none, 0, none, none, none, none, none⟩
      ∧ MeetsR42 ⟨some 1, .standing, 0, none, 0, none, none, none, none, none⟩ filled :=
  ⟨⟨rfl, by decide⟩, ⟨rfl, rfl⟩, rfl, rfl, rfl, rfl, rfl, rfl, ⟨0, rfl⟩, by decide,
    .inr (.inl ⟨_, rfl, .inl rfl⟩)⟩

/-- `standing`, the block in slot A with these first cues, the last of them at the play pointer's rest. -/
def resting (l : List Cue) (taken : List Pos) : State :=
  let s := standing ⟨7, 0, 1, 0, 0, 0⟩ .ready FigRun.reset
  { s with csq := { s.csq with
    slotA := { s.csq.slotA with cues := l ++ List.replicate 30 ⟨5, 900, 16, 0, 0, 0⟩ }
    lead := ⟨none, 2, none, none⟩, gatesDone := taken } }

/-- A strike, a GATE cue already taken, a strike and a TEMPO cue that fail their checks, each before a LAMP cue; and the
LAMP cue itself: what a pointer does at them while the beat clock stands. -/
theorem witness_StandingMoves : let lamp : Cue := ⟨5, 0, 16, 255, 0, 0⟩
    let view := fun q taken => cueView (resting [q, lamp] taken) (resting [q, lamp] taken).csq.play
    let valid := fun q => cueValid (resting [q, lamp] []) (partsOf (resting [q, lamp] [])) Pos.first none q
    (∀ x ∈ ([(⟨1, 0, 12, 64, 0, 0⟩, []), (⟨7, 0, 1, 0, 0, 0⟩, [Pos.first]), (⟨1, 5000, 12, 64, 0, 0⟩, []),
        (⟨6, 0, 20, 0, 0, 0⟩, [])] : List (Cue × List Pos)),
      let v := resting [x.1, lamp] x.2
      let c := v.csq.play.step (partsOf v) none
      v.csq.running = false ∧ view x.1 x.2 = .cue Pos.first x.1 ∧ cueView v v.csq.lead = .ended
        ∧ cueView v c = .cue { Pos.first with idx := 1 } lamp ∧ c.item = 1 ∧ v.csq.slotA.item = 1
        ∧ v.csq.slotB.state = .empty ∧ cueValid v (partsOf v) { Pos.first with idx := 1 } c.prev lamp = true)
    ∧ valid ⟨1, 0, 12, 64, 0, 0⟩ = true ∧ valid ⟨7, 0, 1, 0, 0, 0⟩ = true
    ∧ valid ⟨1, 5000, 12, 64, 0, 0⟩ = false ∧ valid ⟨6, 0, 20, 0, 0, 0⟩ = false ∧ lamp.kind = 5
    ∧ view lamp [] = .cue Pos.first lamp ∧ valid lamp = true := by
  decide +kernel

/-- A BAD block, in either slot, of a programme of two items, both pointers at it, the block behind not read (R62). -/
theorem witness_BadBlockPassed : let v := fun (inB : Bool) =>
      let s := resting [] []
      let sl : CueSlot := ⟨.bad, 1, Pos.first, 0, []⟩
      let other : CueSlot := ⟨.filling, 2, { Pos.first with idx := 32 }, 1, []⟩
      ({ s with csq := { s.csq with
        parts := some [{ onePart with intro := ⟨0, 64⟩ }], lead := s.csq.play
        slotA := if inB then { other with state := .empty } else sl
        slotB := if inB then sl else other } } : State)
    ∀ inB ∈ [true, false], (v inB).csq.running = false ∧ cueView (v inB) (v inB).csq.play = .badBlock
      ∧ cueView (v inB) (v inB).csq.lead = .badBlock
      ∧ (nextItem (partsOf (v inB)) Pos.first).bind (nextItem (partsOf (v inB))) = none
      ∧ (v inB).csq.play.item = 1 ∧ (v inB).csq.lead.item = 1
      ∧ (let w : State := { v inB with csq := { (v inB).csq with
          lead := (v inB).csq.lead.skipItem (partsOf (v inB))
          slotA := if inB then (v inB).csq.slotA else CueSlot.vacant
          slotB := if inB then CueSlot.vacant else (v inB).csq.slotB } }
        let c := (v inB).csq.play.skipItem (partsOf (v inB))
        cueView w c = .unread ∧ cueView w w.csq.lead = .unread) := by
  decide +kernel

theorem witness_Strike : ∀ q ∈ ([⟨1, 0, 12, 127, 0, 0⟩, ⟨3, 0, 12, 127, 48, 0⟩, ⟨1, 96, 12, 127, 0, 0⟩] : List Cue),
    let s := playing q
    let u : State := { s with now := 1000 }
    Live 1000 s ∧ s.csq.running = true ∧ cueView s s.csq.lead = .cue Pos.first q
      ∧ cueValid s (partsOf s) Pos.first s.csq.lead.prev q = true
      ∧ (strikeAhead u Pos.first q).gate = false ∧ (strikeAhead u Pos.first q).unread = none
      ∧ (showTime u < tauOf (strikeAhead u Pos.first q).seg
        (cueTick (partsOf s) Pos.first q) - 100000 ↔ q.tick = 96) := by
  unfold Live; decide +kernel

/-- A waiting lead pointer that comes to a strike whose onset has passed skips it, a GATE cue of its tick late behind it
notwithstanding (R63). -/
theorem test_passed_strike_at_a_late_gate : let s := playing ⟨1, 0, 12, 64, 0, 0⟩
    let cues := s.csq.slotA.cues.set 1 ⟨7, 0, 1, 0, 0, 0⟩
    let u : State := { s with now := 5000, csq := { s.csq with
      lead := { s.csq.lead with waiting := some 1 }, slotA := { s.csq.slotA with cues := cues } } }
    (leadMove u).map (·.csq.lead.pos) = some (some { Pos.first with idx := 1 }) := by
  decide +kernel

/-- `playing`, its block ending in a STRIKE of tick 0 at the lead pointer, the pass going on in items 2 and 3. -/
def blockEnd (st : SlotState) : State :=
  let s := playing ⟨1, 0, 12, 64, 0, 0⟩
  let last := { Pos.first with idx := 31 }
  { s with csq := { s.csq with
      parts := some [{ onePart with intro := ⟨0, 96⟩ }]
      slotA := { s.csq.slotA with cues := List.replicate 32 ⟨1, 0, 12, 64, 0, 0⟩ }
      slotB := ⟨st, 2, { Pos.first with idx := 32 }, 1, []⟩
      play := ⟨some last, 1, some 0, none⟩, lead := ⟨some last, 1, some 0, none⟩ } }

/-- The last strike of a block waits for the next block of its pass, and not behind a BAD one: it is dispatched, and
the block behind is read (R54, R62, R69). -/
theorem test_bad_block_ends_the_run : (leadMove (blockEnd .filling)).isNone = true
    ∧ (pump (blockEnd .bad)).csq.lead.item = 3
    ∧ (pump (blockEnd .bad)).csq.slotA = ⟨.filling, 3, { Pos.first with idx := 64 }, 2, []⟩ := by
  decide +kernel

theorem witness_WakeUp : let w : WakeUp := ⟨4, 0, 48⟩
    let r : HourRec := ⟨4, 12, 64, 48, 0, 48, 2⟩
    let s : State := { playing ⟨1, 900, 12, 64, 0, 0⟩ with
      csq := { (playing ⟨1, 900, 12, 64, 0, 0⟩).csq with wakeups := [w], play := ⟨none, 2, none, none⟩ }
      bel := { base.bel with hours := [r] } }
    let u : State := { s with now := 900000 }
    Live 900000 s ∧ s.csq.running = true ∧ s.csq.wakeups = [w] ∧ s.bel.hours = [r] ∧ r.id = w.record
      ∧ (wakeAhead u w.part w.tick).gate = false ∧ (wakeAhead u w.part w.tick).unread = none
      ∧ tauOf (wakeAhead u w.part w.tick).seg w.tick - 100000 ≤ showTime u ∧ 1 < r.remaining
      ∧ showTime { s with now := 899999 } < tauOf (wakeAhead { s with now := 899999 } w.part w.tick).seg w.tick - 100000 := by
  unfold Live; decide +kernel

/-- A wake-up that an unread block has held is answered as the block comes (R63, R70). -/
theorem test_held_wake_up_is_answered : let s := playing ⟨1, 900, 12, 64, 0, 0⟩
    let u := fun st => ({ s with
      csq := { s.csq with wakeups := [⟨4, 0, 1⟩], slotA := { s.csq.slotA with state := st } }
      bel := { base.bel with hours := [⟨4, 12, 64, 48, 0, 1, 2⟩] } } : State)
    (pump (u .filling)).csq.wakeups = [⟨4, 0, 1⟩] ∧ (pump (u .ready)).csq.wakeups = [⟨4, 0, 49⟩] := by
  decide +kernel

/-- `base`, its beat clock running in the last part, past its cues. -/
def lastPart (now : Nat) : State := { base with
  now := now, csq := { base.csq with
    running := true, parts := some [⟨60, 4, false, 0, 96, 0, 0, ⟨0, 0⟩, ⟨0, 0⟩, ⟨0, 0⟩⟩] } }

theorem witness_LastPart : let s := lastPart 4000000
    Live 4000000 s ∧ ZonesAtRest s ∧ s.csq.running = true
      ∧ tauOf s.csq.seg ((partsOf s).getD s.csq.seg.part Part.nil).length ≤ showTime { s with now := 4000000 }
      ∧ showTime (lastPart 3999999) < tauOf s.csq.seg ((partsOf s).getD s.csq.seg.part Part.nil).length
      ∧ (partsOf s).length ≤ s.csq.seg.part + 1 ∧ ∀ f, figRec s f = none := by
  refine ⟨⟨by decide, by decide⟩, by unfold ZonesAtRest; decide, by decide, by decide +kernel, by decide +kernel,
    by decide, noFigures⟩

theorem witness_PartEndsIntoTheNext : let part : Part := ⟨60, 4, false, 0, 96, 0, 0, ⟨0, 1⟩, ⟨0, 0⟩, ⟨0, 0⟩⟩
    let s : State := { lastPart 4000000 with csq := { (lastPart 4000000).csq with
      parts := some [part, part], play := ⟨some Pos.first, 1, none, none⟩, lead := ⟨none, 2, none, none⟩ } }
    let later : State := { s with csq := { s.csq with play := ⟨some ⟨1, .intro, 0, 0⟩, 2, none, none⟩ } }
    Live 4000000 s ∧ ZonesAtRest s ∧ s.csq.running = true ∧ s.csq.seg.part = 0
      ∧ tauOf s.csq.seg ((partsOf s).getD 0 Part.nil).length ≤ showTime { s with now := 4000000 }
      ∧ s.csq.seg.part + 1 < (partsOf s).length ∧ Pos.first.part < 1
      ∧ Pos.first.pass < part.passes Pos.first.sec ∧ Pos.first.idx < (part.range Pos.first.sec).count
      ∧ (∀ q, s.csq.lead.pos = some q → 1 ≤ q.part) ∧ firstPosFrom (partsOf s) 1 = some ⟨1, .intro, 0, 0⟩
      ∧ ∀ q, later.csq.play.pos = some q → 1 ≤ q.part := by
  refine ⟨⟨by decide, by decide⟩, ⟨rfl, rfl⟩, rfl, rfl, by decide +kernel, by decide, by decide, by decide, by decide,
    nofun, by decide, ?_⟩
  intro q h; cases h; decide

theorem witness_Mark : let s := playing ⟨1, 900, 12, 64, 0, 0⟩
    Live 1000 s ∧ s.csq.running = true
      ∧ s.chr.channels.find? (fun c => c.kind == .strobe) = some ⟨.strobe, .beat⟩
      ∧ s.csq.nextMark < ((partsOf s).getD s.csq.seg.part Part.nil).length
      ∧ tauOf s.csq.seg s.csq.nextMark ≤ showTime { s with now := 1000 }
      ∧ (wakeAhead { s with now := 1000 } s.csq.seg.part s.csq.nextMark).gate = false := by
  unfold Live; decide +kernel

/-- The record of a bell: curve 500 to 5,000 µs, no damper, heat limit 9,000 µs. -/
def oneBell : BellRec := ⟨1, none, [(1, 500), (43, 2000), (85, 3500), (127, 5000)], 10000, 20000, 1500, 9000, 100, 20,
  500, true⟩

/-- `base` with bell 12 configured, of a heat, at NORMAL, and strikes listed. -/
def belfry (heat : Nat) (l : List Strike) : State := { base with
  bel := { base.bel with
    bells := base.bel.bells.set 12 (some oneBell), run := base.bel.run.set 12 ⟨.idle, heat, .down⟩
    strikes := l, nextIns := l.length }
  sck := { base.sck with
    quietCeiling := 100, entry := some 0
    calendar := [⟨true, 0, 0, 0, 0, 0, 0, 0, 0, 127, 0, 0, 1440⟩] }
  chr := { base.chr with rail := .normal } }

/-- A wake-up of tick 24 that an unread block has held is answered at the part's end with its own onset, 1,000,000, in
a tempo of 60 (R70). -/
theorem witness_HeldWakeUpAtAPartEnd : let part : Part := ⟨120, 4, false, 0, 96, 0, 0, ⟨0, 1⟩, ⟨0, 0⟩, ⟨0, 0⟩⟩
    let s : State := { lastPart 4000000 with
      csq := { (lastPart 4000000).csq with
        parts := some [part, part], seg := ⟨0, 0, 0, 60⟩, wakeups := [⟨4, 0, 24⟩]
        slotA := ⟨.filling, 1, Pos.first, 0, []⟩
        play := ⟨some Pos.first, 1, none, some 1⟩, lead := ⟨some Pos.first, 1, none, some 1⟩ }
      bel := { (belfry 0 []).bel with hours := [⟨4, 12, 64, 24, 0, 24, 1⟩] }
      chr := { base.chr with rail := .normal } }
    Live 4000000 s ∧ ZonesAtRest s ∧ s.csq.running = true ∧ s.csq.seg.part + 1 < (partsOf s).length
      ∧ tauOf s.csq.seg ((partsOf s).getD 0 Part.nil).length ≤ showTime { s with now := 4000000 }
      ∧ (wakeAhead { s with now := 4000000 } 0 24).unread = some 1 ∧ tauOf s.csq.seg 24 = 1000000
      ∧ (lateWakeUps wakeFuel s).csq.wakeups = [] ∧ (lateWakeUps wakeFuel s).flt.suppressed = 1 := by
  unfold Live ZonesAtRest; decide +kernel

theorem witness_StrikeLists : let s := belfry 0 []
    bellRec s 1 = none ∧ bellRec s 12 = some oneBell ∧ oneBell.enabled = true ∧ effVelocity s 127 ≠ 0
      ∧ ((100000 : Int) - (oneBell.leadMin + oneBell.leadSpan * (127 - effVelocity s 127) / 126 : Nat))
          + s.bel.tolerance * 1000 ≥ s.now
      ∧ ((-30000 : Int) - (oneBell.leadMin + oneBell.leadSpan * (127 - effVelocity s 127) / 126 : Nat))
          + s.bel.tolerance * 1000 < s.now
      ∧ s.bel.strikes.length < 16 ∧ 16 ≤ (belfry 0 (List.replicate 16 ⟨12, 64, 0, 0, 0, 0⟩)).bel.strikes.length
      ∧ s.bel.strikes.Pairwise (fun x y => strikeBefore x y = true) := by
  decide +kernel

theorem witness_StrikeDue : let e : Strike := ⟨12, 127, 10000, 10500, 500, 0⟩
    let x : Strike := ⟨12, 64, 10000, 90000, 80000, 1⟩
    let w := curveWidth oneBell.curve 127
    (∀ heat ∈ [4000, 7500, 7501], let s := belfry heat ([] ++ e :: [x])
      Live 1000 s ∧ s.chr.rail ≠ .cut ∧ slotsHeld s < s.bel.k ∧ s.bel.strikes = [] ++ e :: [x]
        ∧ bellRec s e.bell = some oneBell ∧ (e.fire ≤ (1000 : Nat)) ∧ ((1000 : Nat) : Int) ≤ e.fire + s.bel.tolerance * 1000
        ∧ (bellRun s e.bell).hammer = .idle ∧ ¬x.fire ≤ (1000 : Nat))
    ∧ 4000 + w ≤ oneBell.heatLimit ∧ ¬7500 + w ≤ oneBell.heatLimit
    ∧ oneBell.minWidth ≤ oneBell.heatLimit - 7500 ∧ ¬oneBell.minWidth ≤ oneBell.heatLimit - 7501
    ∧ Live 30500 (belfry 0 ([] ++ e :: [x])) ∧ e.fire + (belfry 0 []).bel.tolerance * 1000 ≤ (30500 : Nat)
    ∧ ((30500 : Nat) : Int) < x.fire + (belfry 0 []).bel.tolerance * 1000 := by
  unfold Live; decide +kernel

/-- At the resume the waiting cues are taken in walk order: the STRIKE behind a DAMP drop of its tick fires at once and
lifts the damper again (R67, step 4). -/
theorem test_resume_in_walk_order : let b := belfry 0 []
    let damped : BellRec := { oneBell with damper := some 3 }
    let s := playing ⟨2, 0, 12, 1, 0, 0⟩
    let cues := s.csq.slotA.cues.set 1 ⟨1, 0, 12, 127, 0, 0⟩
    let u : State := { s with
      sck := b.sck, chr := b.chr
      bel := { b.bel with bells := b.bel.bells.set 12 (some damped), tolerance := 60, k := 1 }
      csq := { s.csq with slotA := { s.csq.slotA with cues := cues }, anchorReal := 1000 } }
    (bellRun (takeWaiting 40 u) 12).damper = .upHeld
      ∧ (takeWaiting 40 u).csq.lead.pos = some { Pos.first with idx := 2 } := by
  decide +kernel

theorem witness_Hammers : let s := fun r => ({ belfry 0 [] with
      bel := { (belfry 0 []).bel with run := base.bel.run.set 12 r, heatTimer := some 1000 } } : State)
    let a := s ⟨.pulsing 1000, 500, .upHeld⟩
    let b := s ⟨.recovering 1000, 500, .up 1000⟩
    Live 1000 a ∧ (bellRun a 12).hammer = .pulsing 1000 ∧ bellRec a 12 = some oneBell ∧ a.bel.strikes = []
      ∧ Live 1000 b ∧ (bellRun b 12).hammer = .recovering 1000 ∧ (bellRun b 12).damper = .up 1000
      ∧ b.bel.heatTimer = some 1000 := by
  unfold Live; decide

/-- The record of a figure: encoder, home and limit sensors 1 to 3, travel 4,000, park 2,000. -/
def oneFigure : FigRec := ⟨1, 2, 1, 2, some 3, 4000, 2000, 15, 300, 20, 400, 30, []⟩

/-- `base` with figure 6 configured and at `q`, its sensors at their kinds, NORMAL. -/
def stage (c : FigRec) (q : FigRun) (sens : List SensRun) : State := { base with
  fig := { base.fig with figs := base.fig.figs.set 6 (some c), run := base.fig.run.set 6 q }
  chr := { base.chr with
    rail := .normal, sensors := sens
    sensorTab := [.off, .encoder .rising, .home true, .limit true, .off, .off, .off, .off, .off] } }

/-- The figure a `stage` configures is the only one. -/
theorem stage_only {c q sens g k} (h : figRec (stage c q sens) g = some k) : g = 6 ∧ k = c := by
  match g with
  | 0 | 1 | 2 | 3 | 4 | 5 => cases h
  | 6 => cases h; exact ⟨rfl, rfl⟩
  | _ + 7 => cases h

/-- Sensor pins high, encoder and home filters up at 1 ms. -/
def pinsHigh : List SensRun :=
  [⟨false, none, none⟩, ⟨true, some false, some 1000⟩, ⟨true, some false, some 1000⟩] ++ List.replicate 6 ⟨false, some false, none⟩

/-- A run of a kind and phase toward 1,000. -/
def oneRun (k : RunKind) (ph : HomePhase) (zones : List (Nat × Nat)) : RunRec :=
  ⟨k, [(1000, 80)], 1, 100, zones, false, ph, .seek, .runs 1000, false⟩

/-- Two figures configured, one with homing zones, as the listen timer runs out. -/
theorem witness_ListenTimerWithFigures : let q : FigRun := { FigRun.reset with state := .jammed, duty := 80 }
    let u := stage oneFigure q []
    let s : State := { u with
      iml := { base.iml with station := .listening, listen := some 1000 }
      fig := { u.fig with figs := u.fig.figs.set 5 (some { oneFigure with homingZones := [1, 63] }) } }
    Live 1000 s ∧ ZonesAtRest s ∧ s.iml.station = .listening ∧ s.iml.listen = some 1000 ∧ s.bus.queue.length < 8
      ∧ figRec s 6 = some oneFigure ∧ figRec s 5 = some { oneFigure with homingZones := [1, 63] }
      ∧ s.zon.reqs = [] ∧ ∀ r ∈ s.zon.reqs, figRec s r.figure = none := by
  unfold Live ZonesAtRest; decide

theorem witness_GoExcludesAFigure : let at_ := fun q => ({ atGate .ready with
      fig := (stage oneFigure q []).fig } : State)
    let run := some (oneRun .move .seek [])
    (∀ q ∈ [(⟨.moving, 2020, true, 80, none, none, none, .none, true, run⟩ : FigRun),
        ⟨.parked, 1000, true, 0, none, none, none, .none, false, none⟩], let s := at_ q
      Hears 1000 5 s ∧ ZonesAtRest s ∧ 6 < s.fig.run.length ∧ figRec s 6 = some oneFigure ∧ s.she.engine = .gateWait
        ∧ Sends s ∧ s.bus.queue.length < 6 ∧ ((figRun s 6).state = .moving
          ∨ ((figRun s 6).state = .parked ∧ (figRun s 6).duty = 0)))
    ∧ (2000 - 2020) + (2020 - 2000) ≤ oneFigure.window ∧ ¬(2000 - 1000) + (1000 - 2000) ≤ oneFigure.window
    ∧ ∀ q, ∀ k ≤ 6, k ≠ 6 → figRec (at_ q) k = none := by
  refine ⟨?_, by decide, by decide, fun q k hk hn => ?_⟩
  · unfold Hears Live ZonesAtRest Sends; decide
  · match k with
    | 0 | 1 | 2 | 3 | 4 | 5 => rfl
    | 6 => exact absurd rfl hn
    | _ + 7 => omega

theorem witness_Sensors : let q : FigRun := ⟨.homing, 500, false, 15, none, some 5000, none, .none, false, some (oneRun .homing .seek [])⟩
    let s := stage oneFigure q pinsHigh
    (s.now ≤ 1000 ∧ (sensRun s 2).pin = true ∧ (sensRun s 3).pin = false)
    ∧ (Live 1000 s ∧ ZonesAtRest s ∧ (sensRun s 2).timer = some 1000 ∧ sensRec s 2 = .home true
      ∧ (sensRun s 2).filtered ≠ some true ∧ figRec s 6 = some oneFigure ∧ oneFigure.home = 2
      ∧ (∀ g ≤ 6, ∀ k, figRec s g = some k → k.home = 2 → g = 6) ∧ (figRun s 6).state = .homing
      ∧ (figRun s 6).run = some (oneRun .homing .seek [])
      ∧ 0 < (oneRun .homing .seek []).waypoint.1)
    ∧ let low := stage oneFigure q (pinsHigh.set 2 ⟨false, some true, some 1000⟩)
      Live 1000 low ∧ ZonesAtRest low ∧ (sensRun low 2).timer = some 1000 ∧ sensRec low 2 = .home true
        ∧ (sensRun low 2).pin ≠ true :=
  ⟨by decide, ⟨⟨rfl, by decide⟩, ⟨rfl, rfl⟩, rfl, rfl, by decide, rfl, rfl,
    fun _ _ _ h _ => (stage_only h).1, rfl, rfl, by decide⟩,
    ⟨rfl, by decide⟩, ⟨rfl, rfl⟩, rfl, rfl, by decide⟩

theorem witness_LimitSensor : let pins := pinsHigh.set 3 ⟨true, some false, some 1000⟩
    let r := some (oneRun .move .seek [])
    let at_ := fun d => stage oneFigure ⟨.moving, 500, true, d, none, none, none, .none, true, r⟩ pins
    (∀ d ∈ [80, 0], Live 1000 (at_ d) ∧ ZonesAtRest (at_ d) ∧ (sensRun (at_ d) 3).timer = some 1000
      ∧ sensRec (at_ d) 3 = .limit true ∧ (sensRun (at_ d) 3).pin = true ∧ (sensRun (at_ d) 3).filtered ≠ some true
      ∧ figRec (at_ d) 6 = some oneFigure ∧ (figRun (at_ d) 6).duty = d ∧ (figRun (at_ d) 6).lastOut = true
      ∧ (figRun (at_ d) 6).state = .moving)
    ∧ oneFigure.limit = some 3 ∧ ∀ d, ∀ g ≤ 6, ∀ k, figRec (at_ d) g = some k → k.limit = some 3 → g = 6 := by
  refine ⟨?_, rfl, fun d _ _ _ h _ => (stage_only h).1⟩
  unfold Live ZonesAtRest; decide

/-- A limit sensor reached while driven OUTWARD ends the drive and is recorded (R108). -/
theorem test_overtravel : ∃ u, exec (.sensorFilterExpiry 1000 3) (stage oneFigure ⟨.moving, 500, true, 80, none, none,
      none, .none, true, some (oneRun .move .seek [])⟩ (pinsHigh.set 3 ⟨true, some false, some 1000⟩)) = .next u
      ∧ (figRun u 6).state = .jammed ∧ (figRun u 6).duty = 0
      ∧ u.flt.list.getLast?.map (·.code) = some .overtravel := by
  refine ⟨_, rfl, ?_⟩
  decide

/-- A home sensor already reached OUTWARD still gives the leg to park its reversal hold (R112 step 2). -/
theorem test_home_found_outward : ∃ u, exec (.sensorFilterExpiry 1000 2) (stage oneFigure
      ⟨.homing, 500, true, 0, none, none, some 5000, .none, false, some (oneRun .homing .seek [])⟩ pinsHigh) = .next u
      ∧ (figRun u 6).hold = some 51000 ∧ (figRun u 6).pos = 0 ∧ (figRun u 6).duty = 0 := by
  refine ⟨_, rfl, ?_⟩
  decide

theorem witness_Encoder : let moving : FigRun := ⟨.moving, 500, true, 80, none, some 5000, none, .none, true, some (oneRun .move .seek [])⟩
    let parked : FigRun := { moving with state := .parked, run := none, coast := some 1500, duty := 0, jam := none, pos := 4000 }
    let s := stage oneFigure moving pinsHigh
    let u := stage oneFigure parked pinsHigh
    (Live 1000 s ∧ ZonesAtRest s ∧ (sensRun s 1).timer = some 1000 ∧ sensRec s 1 = .encoder .rising
      ∧ figRec s 6 = some oneFigure ∧ oneFigure.encoder = 1
      ∧ (∀ g ≤ 6, ∀ k, figRec s g = some k → k.encoder = 1 → g = 6)
      ∧ (sensRun s 1).filtered = some (!(sensRun s 1).pin) ∧ (sensRun s 1).pin = true ∧ (figRun s 6).state = .moving
      ∧ (figRun s 6).run = some (oneRun .move .seek []) ∧ (figRun s 6).hold = none ∧ 0 < (figRun s 6).duty
      ∧ (figRun s 6).pos < oneFigure.travelMax ∧ (oneRun .move .seek []).waypoints.length ≤ (oneRun .move .seek []).leg
      ∧ s.chr.rail = .normal ∧ oneFigure.window < 1000 - 501 ∧ 0 < oneFigure.creep)
    ∧ (Live 1000 u ∧ ZonesAtRest u ∧ (sensRun u 1).filtered = some (!(sensRun u 1).pin)
      ∧ (∀ g ≤ 6, ∀ k, figRec u g = some k → k.encoder = 1 → g = 6) ∧ (figRun u 6).coast ≠ none
      ∧ 6 < u.fig.run.length ∧ (figRun u 6).state = .parked ∧ (figRun u 6).duty = 0)
    ∧ let still := stage oneFigure { parked with coast := none } pinsHigh
      Live 1000 still ∧ (figRun still 6).coast = none ∧ (figRun still 6).hold = none ∧ (figRun still 6).duty = 0 :=
  ⟨⟨⟨rfl, by decide⟩, ⟨rfl, rfl⟩, rfl, rfl, rfl, rfl, fun _ _ _ h _ => (stage_only h).1, rfl, rfl, rfl, rfl, rfl,
    by decide, by decide, by decide, rfl, by decide, by decide⟩,
    ⟨⟨rfl, by decide⟩, ⟨rfl, rfl⟩, rfl, fun _ _ _ h _ => (stage_only h).1, by decide, by decide, rfl, rfl⟩,
    ⟨rfl, by decide⟩, rfl, rfl, rfl⟩

/-- `oneFigure` moving along a run, one count short of its first waypoint, in a show. -/
def nearly (k : RunKind) (ways : List (Nat × Nat)) (pos : Nat) (e : Engine) : State := { inAShow e with
  fig := (stage oneFigure ⟨.moving, pos, true, 80, none, some 5000, none, .none, true,
    some ⟨k, ways, 1, 100, [(1, 1)], true, .claim, .seek, .off, false⟩⟩ []).fig
  chr := (stage oneFigure FigRun.reset pinsHigh).chr
  zon := { base.zon with view := base.zon.view.set 1 (.held 3 (some 6)) } }

theorem witness_WaypointsAndArrivals : (∀ s ∈ [nearly .move [(1000, 80), (3000, 50)] 999 .running,
      nearly .move [(1000, 80), (500, 50)] 999 .running, nearly .move [(1000, 80)] 984 .running,
      nearly .park [(2000, 15)] 1984 .settling, nearly .move [(1000, 80)] 984 .settling],
      Live 1000 s ∧ ZonesAtRest s ∧ (sensRun s 1).timer = some 1000 ∧ sensRec s 1 = .encoder .rising
        ∧ (sensRun s 1).filtered = some (!(sensRun s 1).pin) ∧ (sensRun s 1).pin = true
        ∧ (figRun s 6).state = .moving ∧ 0 < (figRun s 6).duty ∧ (figRun s 6).hold = none
        ∧ (figRun s 6).pos < oneFigure.travelMax ∧ s.chr.rail = .normal ∧ Sends s ∧ s.bus.queue = [] ∧ s.gtu.gate = none
        ∧ s.zon.reqs = [] ∧ 6 < s.fig.run.length)
    ∧ figRec (nearly .park [] 0 .settling) 6 = some oneFigure ∧ oneFigure.window = 20 := by
  unfold Live ZonesAtRest Sends; decide

theorem witness_EdgesBesideMoves : let home := fun pos => stage oneFigure ⟨.homing, pos, true, 15, none, some 5000, none,
      .none, false, some ⟨.homing, [(2000, 15)], 1, 100, [], true, .toPark, .seek, .off, true⟩⟩ pinsHigh
    let far := nearly .move [(3000, 80)] 4000 .running
    let park := nearly .park [(3000, 15)] 984 .settling
    let gated : State := { nearly .move [(1000, 80)] 984 .gateWait with gtu := (atGate .standing).gtu }
    (∀ s ∈ [home 1984, home 500, far, park, gated], Live 1000 s ∧ ZonesAtRest s ∧ (sensRun s 1).timer = some 1000
      ∧ sensRec s 1 = .encoder .rising ∧ (sensRun s 1).filtered = some (!(sensRun s 1).pin) ∧ (sensRun s 1).pin = true
      ∧ figRec s 6 = some oneFigure ∧ 0 < (figRun s 6).duty ∧ (figRun s 6).lastOut = true
      ∧ (figRun s 6).hold = none ∧ s.chr.rail = .normal ∧ 6 < s.fig.run.length ∧ Sends s ∧ s.bus.queue = [])
    ∧ oneFigure.travelMax = 4000 ∧ oneFigure.window = 20 ∧ (2000 - 1985) + (1985 - 2000) ≤ 20
    ∧ (∀ p, ∀ g ≤ 6, ∀ k, figRec (home p) g = some k → k.encoder = 1 → g = 6)
    ∧ ∀ s ∈ [far, park, gated], ∀ g ≤ 6, g ≠ 6 → figRec s g = none := by
  refine ⟨?_, rfl, rfl, by decide, fun _ _ _ _ h _ => (stage_only h).1, by decide⟩
  unfold Live ZonesAtRest Sends; decide

/-- The first waypoint passed: its zone is released, and a next leg the other way begins with a reversal hold (R105,
R104). -/
theorem test_waypoint_turns : ∃ u, exec (.encoderFilterExpiry 1000 1)
      (nearly .move [(1000, 80), (500, 50)] 999 .running)
      = .next u ∧ (figRun u 6).hold = some 51000 ∧ (figRun u 6).run.map (·.leg) = some 2
      ∧ u.bus.queue.map (·.content) = [.release 2] ∧ zoneAt u 1 = .held 3 none := by
  refine ⟨_, rfl, ?_⟩
  decide

/-- A move that arrives in SETTLING away from the park position is followed by the park run (R115). -/
theorem test_park_run_follows : ∃ u, exec (.encoderFilterExpiry 1000 1) (nearly .move [(1000, 80)] 984 .settling)
      = .next u ∧ (figRun u 6).run.map (·.kind) = some .park ∧ (figRun u 6).state = .moving := by
  refine ⟨_, rfl, ?_⟩
  decide

/-- The arrival at park of the homing run that follows a jam: PARKED, no figure JAMMED or FAILED (R112 step 3). -/
theorem test_homing_arrives : ∃ u, exec (.encoderFilterExpiry 1000 1) (stage oneFigure ⟨.homing, 1984, true, 15, none,
      some 5000, none, .none, false, some ⟨.homing, [(2000, 15)], 1, 100, [], true, .toPark, .seek, .off, true⟩⟩
      pinsHigh) = .next u
      ∧ (figRun u 6).state = .parked ∧ (figRun u 6).duty = 0 ∧ (figRun u 6).pos = 1985 := by
  refine ⟨_, rfl, ?_⟩
  decide

theorem witness_FigureTimers : let at_ := fun q => stage oneFigure q pinsHigh
    let park := oneRun .park .seek []
    let a := at_ ⟨.parked, 0, true, 0, some 1000, none, none, .none, false, none⟩
    let b := at_ ⟨.moving, 0, false, 0, none, none, some 1000, .none, false, some park⟩
    let c := at_ ⟨.moving, 0, true, 80, none, some 1000, none, .none, true, some park⟩
    let d := at_ ⟨.homing, 0, false, 15, none, some 1000, none, .none, false, some (oneRun .homing .seek [])⟩
    (Live 1000 a ∧ (figRun a 6).coast = some 1000)
    ∧ (Live 1000 b ∧ figRec b 6 = some oneFigure ∧ (figRun b 6).hold = some 1000 ∧ (figRun b 6).state = .moving
      ∧ (figRun b 6).run = some park ∧ park.kind = .park ∧ (figRun b 6).duty = 0 ∧ b.chr.rail = .normal
      ∧ park.outward = false ∧ 0 < oneFigure.creep)
    ∧ (Live 1000 c ∧ (figRun c 6).jam = some 1000 ∧ (figRun c 6).state = .moving ∧ c.gtu.gate = none)
    ∧ (Live 1000 d ∧ (figRun d 6).jam = some 1000 ∧ (figRun d 6).state = .homing
      ∧ (figRun d 6).run = some (oneRun .homing .seek []) ∧ (oneRun .homing .seek []).limit = .runs 1000) := by
  unfold Live; decide

theorem witness_OvertravelAndJams : let pins := pinsHigh.set 3 ⟨true, some true, none⟩
    let out := some (oneRun .move .seek [])
    let turned := stage oneFigure ⟨.moving, 500, false, 0, none, none, some 1000, .none, true,
      out.map fun r => { r with outward := true }⟩ pins
    let jams := fun st => stage oneFigure ⟨st, 500, true, 80, none, some 1000, none, .none, true, out⟩ pinsHigh
    (Live 1000 turned ∧ figRec turned 6 = some oneFigure ∧ (figRun turned 6).hold = some 1000
      ∧ (figRun turned 6).state = .moving ∧ (figRun turned 6).run.map (·.outward) = some true
      ∧ (figRun turned 6).duty = 0 ∧ turned.chr.rail ≠ .cut ∧ limitActive turned 6 = true ∧ 0 < oneFigure.creep)
    ∧ ∀ st ∈ [FigState.moving, .homing], Live 1000 (jams st) ∧ (figRun (jams st) 6).jam = some 1000
      ∧ (figRun (jams st) 6).state = st := by
  unfold Live; decide

theorem witness_JamWait : let zoned : FigRec := { oneFigure with homingZones := [1, 63] }
    let q : FigRun := ⟨.jammed, 0, false, 0, none, none, none, .until 1000, false, none⟩
    (∀ c ∈ [oneFigure, zoned], let s := stage c q pinsHigh
      Live 1000 s ∧ ZonesAtRest s ∧ figRec s 6 = some c ∧ (figRun s 6).jamWait = .until 1000
        ∧ (figRun s 6).state = .jammed ∧ (figRun s 6).duty = 0 ∧ Sends s ∧ s.chr.rail = .normal ∧ 0 < c.creep
        ∧ (∀ z ∈ c.homingZones, zoneAt s z = .free) ∧ s.zon.reqs = [] ∧ s.bus.queue.length < 8
        ∧ homeActive s 6 = false ∧ (figRun s 6).lastOut = false)
    ∧ oneFigure.homingZones = [] ∧ zoned.homingZones ≠ []
    ∧ let mute := { stage oneFigure q pinsHigh with iml := { base.iml with station := .stopped, muted := true } }
      Live 1000 mute ∧ figRec mute 6 = some oneFigure ∧ ¬Sends mute := by
  unfold Live ZonesAtRest Sends; decide

/-- `base` with the entry of zones 1 and 63. -/
def zoned (a b : ZoneEntry) : State := { base with zon := { base.zon with view := (base.zon.view.set 1 a).set 63 b } }

theorem witness_HeardClaim : let claim : Byte → List Byte := fun r => [r, 2, 0, 0, 0, 0, 0, 0, 0x80]
    let z : ZoneSet := Bits.ofList 64 [1, 63]
    let third := zoned .free (.held 4 none)
    let pend := zoned .free (.pending 4 9 (some 2000) none)
    let own := zoned .free (.held 3 (some 6))
    (∀ s ∈ [third, pend, own, base], Hears 1000 5 s ∧ ZonesAtRest s)
    ∧ parseClaim (claim 0) = some (false, z) ∧ parseClaim (claim 1) = some (true, z) ∧ z ≠ 0
    ∧ Bits.mem z 0 = false ∧ Bits.toList z = [1, 63]
    ∧ (zoneAt third 63 = .held 4 none ∧ zoneAt third 1 = .free)
    ∧ (zoneAt pend 63 = .pending 4 9 (some 2000) none ∧ zoneAt pend 1 = .free)
    ∧ ((Bits.toList z).filter (fun z => match zoneAt own z with
        | .held st (some _) => st == ownNo own
        | _ => false) = [63] ∧ own.zon.reassertAt.getD 63 none = none ∧ Sends own ∧ own.bus.queue.length < 8)
    ∧ (∀ z ∈ [1, 63], zoneAt base z = .free)
    ∧ (∀ k < 64, Bits.mem z k = true → zoneAt third k = .free ∨ zoneAt third k = .held 4 none)
    ∧ third.bus.queue = [] := by
  unfold Hears Live ZonesAtRest Sends; decide +kernel

theorem witness_HeardClaimOnOwn : let claim : Byte → List Byte := fun r => [r, 2, 0, 0, 0, 0, 0, 0, 0x80]
    let own : State := { zoned .free (.held 3 (some 6)) with
      now := 101000, zon := { (zoned .free (.held 3 (some 6))).zon with
        reassertAt := base.zon.reassertAt.set 63 (some 1000) } }
    let mine : State := { zoned (.pending 3 7 none (some 6)) .free with
      zon := { (zoned (.pending 3 7 none (some 6)) .free).zon with reqs := [⟨6, [1], .claiming 7⟩] } }
    Hears 101000 5 own ∧ ZonesAtRest own ∧ own.zon.reassertAt.getD 63 none = some 1000 ∧ 1000 + 100000 ≤ 101000
      ∧ ¬1001 + 100000 ≤ 101000 ∧ zoneAt own 63 = .held (ownNo own) (some 6) ∧ zoneAt own 1 = .free
      ∧ parseClaim (claim 0) = some (false, Bits.ofList 64 [1, 63]) ∧ Sends own ∧ own.bus.queue = []
      ∧ Hears 1000 2 mine ∧ ZonesAtRest mine ∧ (2 : Byte).toNat < ownNo mine
      ∧ zoneAt mine 1 = .pending (ownNo mine) 7 none (some 6) ∧ zoneAt mine 63 = .free := by
  unfold Hears Live ZonesAtRest Sends; decide +kernel

theorem witness_HeardReassertOnOwn : let run := oneRun .move .seek [(1, 1)]
    let homes := fun ph => { oneRun .homing ph [(1, 0)] with limit := .runs 9000 }
    let at_ := fun (q : FigRun) => ({ stage oneFigure q [] with
      zon := { base.zon with view := base.zon.view.set 1 (.held 3 (some 6)) } } : State)
    let still := fun st r => (⟨st, 500, true, 0, none, none, none, .none, false, r⟩ : FigRun)
    let bare := [still .parked none, still .jammed none, still .failed none, still .unhomed none,
      still .waitZone (some run)]
    let runs := [(⟨.moving, 500, true, 80, none, none, none, .none, true, some run⟩ : FigRun), still .paused (some run),
      still .homing (some (homes .claim)), still .homing (some (homes .seek)), still .homing (some (homes .toPark))]
    let theirs := zoned (.pending 4 9 (some 2000) none) (.pending 4 9 (some 2000) none)
    let mine : State := { zoned (.pending 3 7 none (some 6)) .free with
      zon := { (zoned (.pending 3 7 none (some 6)) .free).zon with reqs := [⟨6, [1], .claiming 7⟩] } }
    (∀ q ∈ bare ++ runs, Hears 1000 5 (at_ q) ∧ Hears 1000 2 (at_ q) ∧ ZonesAtRest (at_ q)
      ∧ zoneAt (at_ q) 1 = .held (ownNo (at_ q)) (some 6) ∧ figRun (at_ q) 6 = q ∧ Sends (at_ q)
      ∧ (at_ q).bus.queue = [] ∧ (at_ q).zon.reqs = [] ∧ ownNo (at_ q) = 3)
    ∧ (∀ q ∈ runs, ∃ r, q.run = some r ∧ r.zones ≠ [])
    ∧ parseClaim [1, 2, 0, 0, 0, 0, 0, 0, 0] = some (true, 2) ∧ Bits.mem (2 : ZoneSet) 0 = false
    ∧ Bits.toList (2 : ZoneSet) = [1]
    ∧ (∀ s ∈ [theirs, mine], Hears 1000 2 s ∧ ZonesAtRest s ∧ s.bus.queue = [])
    ∧ zoneAt theirs 63 = .pending 4 9 (some 2000) none ∧ zoneAt mine 1 = .pending (ownNo mine) 7 none (some 6) := by
  refine ⟨?_, ?_, ?_⟩
  · unfold Hears Live ZonesAtRest Sends; decide +kernel
  · intro q hq
    simp only [List.mem_cons, List.not_mem_nil, or_false] at hq
    rcases hq with rfl | rfl | rfl | rfl | rfl <;> exact ⟨_, rfl, by decide⟩
  · unfold Hears Live ZonesAtRest; decide +kernel

/-- A figure that homes and loses a zone stops and goes back to CLAIM, what is left of its limit kept (R111). -/
theorem test_homing_loses_a_zone : ∃ u, exec (.reassert 1000 2 [1, 2, 0, 0, 0, 0, 0, 0, 0]) { stage oneFigure
      ⟨.homing, 500, false, 15, none, some 5000, none, .none, false,
        some { oneRun .homing .seek [(1, 0)] with limit := .runs 9000 }⟩ [] with
      zon := { base.zon with view := base.zon.view.set 1 (.held 3 (some 6)) } } = .next u
      ∧ (figRun u 6).duty = 0 ∧ (figRun u 6).run.map (fun r => (r.phase, r.resume, r.limit))
        = some (.claim, .seek, .held 8000) ∧ u.zon.reqs = [⟨6, [1], .waiting⟩] ∧ zoneAt u 1 = .held 2 none := by
  refine ⟨_, rfl, ?_⟩
  decide +kernel

/-- A reassert that names one zone of a peer's group voids the whole group (R126). -/
theorem test_group_voided : ∃ u, exec (.reassert 1000 2 [1, 2, 0, 0, 0, 0, 0, 0, 0])
      (zoned (.pending 4 9 (some 2000) none) (.pending 4 9 (some 2000) none)) = .next u
      ∧ zoneAt u 1 = .held 2 none ∧ zoneAt u 63 = .free := by
  refine ⟨_, rfl, ?_⟩
  decide +kernel

theorem witness_PeerWindow : let s := zoned (.pending 5 9 (some 1000) none) .free
    Live 1000 s ∧ zoneAt s 1 = .pending 5 9 (some 1000) none ∧ 5 ≠ ownNo s := by
  unfold Live; decide

/-- A view whose one pending zone is `n` has it alone among the zones of its station. -/
theorem pending_only {st g : Nat} {w f : Option Nat} {z k : Nat} {w' f' : Option Nat}
    (h : zoneAt (zoned (.pending st g w f) .free) z = .pending st k w' f') :
    z = 1 ∧ k = g ∧ w' = w := by
  by_cases e : z < 64
  · revert h
    have : ∀ y < 64, y ≠ 1 → zoneAt (zoned (.pending st g w f) .free) y = .free := by
      intro y hy hn
      have : ∀ y < 64, y ≠ 1 → ((List.replicate 64 ZoneEntry.free).set 63 .free).getD y .free = .free := by decide
      have h2 := this y hy hn
      simp only [zoneAt, zoned, base, State.reset, Zon.reset, List.getD_eq_getElem?_getD, List.getElem?_set,
        List.length_set, List.length_replicate, List.getElem?_replicate] at h2 ⊢
      rw [if_neg (Ne.symm hn)]; exact h2
    intro h
    by_cases h1 : z = 1
    · subst h1; cases h; exact ⟨rfl, rfl, rfl⟩
    · rw [this z e h1] at h; cases h
  · have : zoneAt (zoned (.pending st g w f) .free) z = .free := by
      simp only [zoneAt, zoned, base, State.reset, Zon.reset, List.getD_eq_getElem?_getD]
      rw [List.getElem?_eq_none (by simp; omega)]; rfl
    rw [this] at h; cases h

theorem witness_OwnWindow : let v := zoned (.pending 3 7 (some 1000) (some 6)) .free
    let r : ZoneReq := ⟨6, [1], .claiming 7⟩
    let s : State := { v with zon := { v.zon with reqs := [r] } }
    (Live 1000 s ∧ ZonesAtRest s ∧ s.zon.marks = [] ∧ s.zon.view.length ≤ 64 ∧ ownNo s = 3
      ∧ zoneAt s 1 = .pending (ownNo s) 7 (some 1000) (some 6) ∧ ([1] : List Nat).Pairwise (· < ·)
      ∧ s.zon.reqs = r :: [] ∧ r.state = .claiming 7 ∧ r.zones = [1])
    ∧ (∀ z, z ∈ [1] ↔ ∃ k w f, zoneAt s z = .pending (ownNo s) k w f)
    ∧ (∀ z k w f, zoneAt s z = .pending (ownNo s) k w f → k = 7 ∧ ∃ e ≤ 1000, w = some e)
    ∧ (v.zon.reqs = [] ∧ Sends v ∧ v.bus.queue.length < 8) :=
  ⟨⟨⟨rfl, by decide⟩, ⟨rfl, rfl⟩, rfl, by decide, rfl, rfl, by decide, rfl, rfl, rfl⟩,
    fun z => ⟨fun h => by
      have : z = 1 := by simpa using h
      subst this; exact ⟨_, _, _, rfl⟩,
      fun ⟨_, _, _, h⟩ => by have := (pending_only h).1; simp [this]⟩,
    fun z k w f h => ⟨(pending_only h).2.1, 1000, le_refl _, (pending_only h).2.2⟩,
    rfl, .inl rfl, by decide⟩

theorem witness_MarkedWindow : let v := zoned (.pending 3 7 (some 1000) (some 6)) .free
    let r : ZoneReq := ⟨6, [1], .claiming 7⟩
    let s : State := { v with zon := { v.zon with reqs := [r], marks := [7] } }
    Live 1000 s ∧ ZonesAtRest s ∧ s.zon.marks = [7] ∧ s.zon.reqs = [r] ∧ Sends s ∧ s.bus.queue = []
      ∧ zoneAt s 1 = .pending (ownNo s) 7 (some 1000) (some 6) ∧ s.zon.view.length ≤ 64
      ∧ [1].filter (fun z => match s.zon.reassertAt.getD z none with
        | none => true
        | some r => decide (r + 100000 ≤ 1000)) = [1] := by
  unfold Live ZonesAtRest Sends; decide

theorem witness_Release : let s := zoned (.held 5 none) (.held 4 none)
    Hears 1000 5 s ∧ ZonesAtRest s ∧ parseRelease [2, 0, 0, 0, 0, 0, 0, 0x80] = some (Bits.ofList 64 [1, 63])
      ∧ Hears 1000 32 s ∧ 1 ≤ (5 : Byte).toNat ∧ (5 : Byte).toNat ≤ 30 := by
  unfold Hears Live ZonesAtRest; decide +kernel

theorem witness_Silence : let s : State := { base with
      bus := { base.bus with peers := base.bus.peers.set 30 (.present 1000), frameEnds := 5 }
      zon := { base.zon with claimRetry := some 4, reqs := [⟨6, [1, 63], .waiting⟩] } }
    let alone : State := { s with zon := base.zon }
    (Live 1000 alone ∧ ZonesAtRest alone ∧ alone.bus.peers.getD 30 .unknown = .present 1000 ∧ 30 ≠ ownNo alone
      ∧ inShow alone = false ∧ alone.zon.reqs = [])
    ∧ (Live 1000 s ∧ ZonesAtRest s ∧ s.zon.claimRetry = some 4 ∧ 4 < s.bus.frameEnds
      ∧ s.zon.reqs = [⟨6, [1, 63], .waiting⟩] ∧ (∀ z ∈ [1, 63], zoneAt s z = .free) ∧ s.bus.queue.length < 8) := by
  unfold Live ZonesAtRest; decide

theorem witness_Rail : Live 1000 base ∧ (∀ f, figRec base f = none) ∧ ∀ b e, (bellRun base b).hammer ≠ .pulsing e := by
  refine ⟨⟨rfl, by decide⟩, noFigures, fun b e => ?_⟩
  have : (bellRun base b).hammer = .idle := by
    match b with
    | 0 | 1 | 2 | 3 | 4 | 5 | 6 | 7 | 8 | 9 | 10 | 11 | 12 => rfl
    | _ + 13 => rfl
  rw [this]; exact Hammer.noConfusion

theorem witness_Outputs : let s : State := { base with chr := { base.chr with
      lamps := (base.chr.lamps.set 16 ⟨0, some ⟨0, 255, 0, 1000⟩⟩).set 1 ⟨0, some ⟨255, 0, 0, 1001⟩⟩
      strobeEnd := some 1000 } }
    Live 1000 s ∧ (∀ l ∈ s.chr.lamps, ∀ f ∈ l.fade, f.at_ ≤ 1000) ∧ s.chr.strobeEnd = some 1000
      ∧ 0 + 1000 ≤ 1000 ∧ ¬0 + 1001 ≤ 1000 := by
  unfold Live; decide

theorem witness_Bounded : let s : State := { base with
      bus := { base.bus with rxBroken := 255 }, pending := [.frameBroken 1000 .gap] }
    Bounded s ∧ ∃ u, step s = .next u ∧ u.bus.rxBroken = 255 :=
  ⟨⟨by decide, by decide, by decide, by decide, by decide, by decide, by decide, by decide, by decide, by decide⟩,
    _, rfl, by decide⟩

end Sys2Proof.Tests
end

