-- ==== Sys2Proof/Proofs/ProgrammeAgreement.lean ====
section
/-! SUPPORT. Proofs about the agreement of a programme (chapter 2): what the menu holds (R18), and the MENUs recorded
in the gather window (R27). -/

namespace Sys2Proof.Machine

/-! ## The menu (R18) -/

/-- The level used for the menu is OPEN only where the level is. -/
theorem menuLevel_opened_iff (s : State) : menuLevel s = .opened ↔ s.sck.level = .opened := by
  unfold menuLevel restrictive
  split <;> simp_all

theorem figureFit_iff (s : State) (f : Nat) :
    figureFit s f = true ↔ figRec s f ≠ none ∧ (figRun s f).state = .parked := by
  simp [figureFit, Option.isSome_iff_ne_none]

theorem bellFit_iff (s : State) (b : Nat) :
    bellFit s b = true ↔ ∃ c, bellRec s b = some c ∧ c.enabled = true := by
  simp [bellFit]

/-- A condition asked of a set's entries one by one. -/
theorem toList_all_iff {w : Nat} (c : BitVec w) (p : Nat → Bool) :
    (Bits.toList c).all p = true ↔ ∀ i < w, Bits.mem c i = true → p i = true := by
  simp only [List.all_eq_true, mem_toList, and_imp]

/-- R18: the four conditions of membership, read from the entry and the state of figures, bells and rail. -/
theorem inMenu_iff (s : State) (p : Nat) : inMenu s p = true ↔
    let e := s.csq.directory.getD p DirEntry.absent
    e.present = true ∧ e.bad = false
      ∧ (∀ f < 8, Bits.mem e.figures f = true → figRec s f ≠ none ∧ (figRun s f).state = .parked)
      ∧ (∀ b < 16, Bits.mem e.bells b = true → ∃ c, bellRec s b = some c ∧ c.enabled = true)
      ∧ (e.bells = 0 ∨ s.chr.rail ≠ .cut) ∧ (s.sck.level = .opened ∨ e.quietFit = true) := by
  simp only [inMenu, Bool.and_eq_true, Bool.or_eq_true, Bool.not_eq_true', beq_iff_eq, bne_iff_ne,
    toList_all_iff, figureFit_iff, bellFit_iff, menuLevel_opened_iff, and_assoc]

theorem mem_menuOf_iff (s : State) {p : Nat} (hp : p < 32) :
    Bits.mem (menuOf s) p = true ↔ p = 0 ∨ inMenu s p = true := by
  simp only [menuOf, mem_ofList, Bool.and_eq_true, decide_eq_true_eq, List.contains_iff_mem, List.mem_filter,
    List.mem_range, Bool.or_eq_true, beq_iff_eq, hp, true_and, and_true]

/-- Settles O25: membership in the menu's set, then R18's conditions one by one. -/
theorem menuIsWhatTheStationCanPlay : Obligations.MenuIsWhatTheStationCanPlay := by
  intro p s hp
  exact (mem_menuOf_iff s hp).trans (or_congr_right (inMenu_iff s p))

/-! ## The gather window (R27) -/

/-- A MENU heard whole goes to the Show Engine as the good frame left the state. -/
theorem exec_menu_heard {t : Nat} {src : Byte} {p : List Byte} {m : MenuIn} {s : State} (hh : Hears t src s)
    (hm : parseMenu p = some m) : exec (.menu t src p) s = .next (takeMenu src.toNat m (heardAt t src s)) := by
  calc exec (.menu t src p) s
      = event t (hear src false (withLayout (parseMenu p) (takeMenu src.toNat))) s := rfl
    _ = .next (withLayout (parseMenu p) (takeMenu src.toNat) (heardAt t src s)) := by
      rw [event_live hh.1, hear_of_hears hh]
    _ = .next (takeMenu src.toNat m (heardAt t src s)) := by rw [hm]; rfl

/-- What R27 asks of a MENU before it is recorded, in the calling station with gather record `g`. -/
def RecordsMenu (src : Nat) (m : MenuIn) (g : Gather) (s : State) : Prop :=
  s.she.engine = .calling ∧ g.window ≠ none ∧ isStation src = true ∧ src ≠ ownNo s ∧ m.caller = ownNo s
    ∧ m.slot = g.slot

theorem takeMenu_recorded {src : Nat} {m : MenuIn} {g : Gather} {s : State} (hg : s.she.gather = some g)
    (h : RecordsMenu src m g s) : takeMenu src m s =
      s.modShe fun u => { u with gather := some { g with answers := putAnswer src m.menu g.answers } } := by
  simp only [takeMenu, hg]
  exact if_pos (by simpa only [RecordsMenu, Option.isSome_iff_ne_none] using h)

theorem takeMenu_ignored {src : Nat} {m : MenuIn} {g : Gather} {s : State} (hg : s.she.gather = some g)
    (h : ¬RecordsMenu src m g s) : takeMenu src m s = s := by
  simp only [takeMenu, hg]
  exact if_neg (by simpa only [RecordsMenu, Option.isSome_iff_ne_none] using h)

/-- For a frame heard, the conditions of R27 are those of the state before it, and a station's source is never the
own number. -/
theorem recordsMenu_heardAt_iff {t : Nat} {src : Byte} {s : State} (hh : Hears t src s) (m : MenuIn) (g : Gather) :
    RecordsMenu src.toNat m g (heardAt t src s) ↔ s.she.engine = .calling ∧ g.window ≠ none ∧ 1 ≤ src.toNat
      ∧ src.toNat ≤ 30 ∧ m.caller = ownNo s ∧ m.slot = g.slot := by
  have hown : 1 ≤ src.toNat → src.toNat ≠ ownNo s := hears_not_own hh
  have hno : ownNo (heardAt t src s) = ownNo s := rfl
  simp only [RecordsMenu, heardAt_she, hno, isStation, decide_eq_true_eq, and_assoc]
  tauto

/-- Settles O29: the MENU reaches `takeMenu` in the state after the frame, which records or ignores it. -/
theorem menuIsRecordedInTheWindow : Obligations.MenuIsRecordedInTheWindow := by
  intro t src p m g s hh hm hg
  have hiff := recordsMenu_heardAt_iff hh m g
  have hgather : (heardAt t src s).she.gather = some g := hg
  rw [exec_menu_heard hh hm]
  constructor
  · intro htaken
    rw [takeMenu_recorded hgather (hiff.mpr htaken)]
    rfl
  · intro hnot
    rw [takeMenu_ignored hgather fun h => hnot (hiff.mp h)]

end Sys2Proof.Machine
end

/-! SUPPORT. Proofs about the shared zones (chapter 7): the end of a peer's claim window (R124) and a RELEASE heard
(R129). -/

namespace Sys2Proof.Machine

/-! ## A peer's window (R124) -/

/-- A working of the view that does to every entry what `g` does, whichever zone it is of. -/
theorem mapView_eq_map {f : Nat → ZoneEntry → ZoneEntry} {g : ZoneEntry → ZoneEntry} (h : ∀ z e, f z e = g e)
    (s : State) : mapView f s = { s with zon := { s.zon with view := s.zon.view.map g } } := by
  have hview : s.zon.view.mapIdx f = s.zon.view.map g := List.ext_getElem (by simp) (by simp [h])
  simp only [mapView, State.modZon, hview]

/-- Settles O52: `peerWindowsEnd` works the view alone, and does to each kind of entry what R124 says. -/
theorem peerWindowEndsInAHold : Obligations.PeerWindowEndsInAHold := by
  intro t s hlive
  calc exec (.peerClaimWindowEnd t) s
      = event t peerWindowsEnd s := rfl
    _ = .next (peerWindowsEnd { s with now := t }) := event_live hlive _
    _ = _ := congrArg Host.Outcome.next <| mapView_eq_map (fun _ e => by
      cases e with
      | free => rfl
      | held st f => rfl
      | pending st g w f => cases w <;> rfl) { s with now := t }

/-! ## RELEASE (R129) -/

/-- Freeing zones of a station works the view, and owes a trial where an entry became FREE. -/
theorem freeZones_eq (src : Nat) (p : Nat → Bool) {s : State} (hdue : s.zon.trialDue = false) :
    freeZones src p s = { s with zon := { s.zon with
      view := s.zon.view.mapIdx fun z e => if p z ∧ stationOf e = some src then .free else e
      trialDue := (List.range 64).any fun z => p z && stationOf (zoneAt s z) == some src } } := by
  simp only [freeZones, zonesWhere, List.any_filter, oweTrialIf]
  split
  · next hfreed => simp only [oweTrial, mapView, State.modZon, hfreed]
  · next hnone => simp only [mapView, State.modZon, hdue, Bool.eq_false_iff.mpr hnone]

/-- A RELEASE of another station frees what it names of its source, zone 0 passed over. -/
theorem takeRelease_station {src : Nat} (zones : ZoneSet) {s : State} (hsrc : 1 ≤ src ∧ src ≤ 30)
    (hown : src ≠ ownNo s) :
    takeRelease src zones s = freeZones src (fun z => decide (1 ≤ z) && Bits.mem zones z) s :=
  if_pos ⟨decide_eq_true hsrc, hown⟩

theorem takeRelease_noStation {src : Nat} (zones : ZoneSet) (s : State) (hsrc : ¬(1 ≤ src ∧ src ≤ 30)) :
    takeRelease src zones s = s :=
  if_neg fun hst => hsrc (of_decide_eq_true hst.1)

/-- A RELEASE heard whole goes to the Zone Unit as the good frame left the state, and the trials owed follow. -/
theorem exec_release_heard {t : Nat} {src : Byte} {p : List Byte} {zones : ZoneSet} {s : State}
    (hh : Hears t src s) (hp : parseRelease p = some zones) :
    exec (.release t src p) s = .next (settleZones trialFuel (takeRelease src.toNat zones (heardAt t src s))) := by
  calc exec (.release t src p) s
      = event t (fun s => settleZones trialFuel
          (hear src false (withLayout (parseRelease p) (takeRelease src.toNat)) s)) s := rfl
    _ = .next (settleZones trialFuel
          (withLayout (parseRelease p) (takeRelease src.toNat) (heardAt t src s))) := by
      rw [event_live hh.1, hear_of_hears hh]
    _ = .next (settleZones trialFuel (takeRelease src.toNat zones (heardAt t src s))) := by rw [hp]; rfl

/-- Settles O54: from a station the RELEASE frees its zones; from another source nothing is owed and nothing
changes. -/
theorem heardReleaseFreesZones : Obligations.HeardReleaseFreesZones := by
  intro t src p zones s hh hrest hp h of view freed
  have hheard : ZonesAtRest h := hrest
  have hof : ∀ e, of e = (stationOf e == some src.toNat) := by
    intro e
    cases e <;> rfl
  rw [exec_release_heard hh hp]
  by_cases hsrc : 1 ≤ src.toNat ∧ src.toNat ≤ 30
  · have hown : src.toNat ≠ ownNo s := hears_not_own hh hsrc.1
    have hview : view = s.zon.view.mapIdx fun z e =>
        if (decide (1 ≤ z) && Bits.mem zones z) = true ∧ stationOf e = some src.toNat then .free else e := by
      simp only [view, hof, Bool.and_eq_true, decide_eq_true_eq, beq_iff_eq, and_assoc]
    have hfreed : freed = (List.range 64).any fun z =>
        (decide (1 ≤ z) && Bits.mem zones z) && stationOf (zoneAt s z) == some src.toNat := by
      simp only [freed, hof]
    rw [if_pos hsrc, takeRelease_station (s := h) zones hsrc hown, freeZones_eq _ _ hheard.1, hview, hfreed]
    rfl
  · rw [if_neg hsrc, takeRelease_noStation zones _ hsrc, settleZones_rest hheard]

end Sys2Proof.Machine

/-! SUPPORT. Proofs about what every command keeps: a next state, the moment, the waiting commands and the bounds. -/

namespace Sys2Proof.Machine

/-- The command answers a next state, not before the present moment, with the same commands waiting, and within the
bounds where `s` was. -/
def Completes (s : State) (o : Host.Outcome State Fault Refusal) : Prop :=
  ∃ u, o = .next u ∧ s.now ≤ u.now ∧ u.pending = s.pending ∧ (Bounded s → Bounded u)

section
variable {f : State → State} (t : Nat) (s : State)

/-- A state that keeps the command's moment is a completion. -/
theorem completes_of_keeps {u : State} (h : Keeps (s.at t) u) : Completes s (.next u) :=
  have hat : Bounded s → Bounded (s.at t) := fun b => b.congr rfl rfl rfl rfl
  ⟨u, rfl, h.now ▸ le_max_left _ _, h.pending, fun b => h.bounds (hat b)⟩

theorem event_completes (hf : ∀ s0 s, Keeps s0 s → Keeps s0 (f s)) : Completes s (event t f s) := by
  obtain ⟨u, hu, hnow, hpending, hbounds⟩ := keeps_event hf t s
  exact ⟨u, hu, hnow ▸ le_max_left _ _, hpending, hbounds⟩

theorem zoneEvent_completes (hf : ∀ s0 s, Keeps s0 s → Keeps s0 (f s)) : Completes s (zoneEvent t f s) :=
  event_completes t s fun s0 s h => keeps_settleZones trialFuel (hf s0 s h)

variable (src : Byte) (isTime : Bool) {α : Type} (p : Option α) {owner : α → State → State}

/-- A good frame, whoever its owner is, completes where its owner keeps. -/
theorem keeps_heard (howner : ∀ x s0 s, Keeps s0 s → Keeps s0 (owner x s)) (s0 s : State) (h : Keeps s0 s) :
    Keeps s0 (hear src isTime (withLayout p owner) s) :=
  keeps_hear h _ _ _ fun _ h => keeps_withLayout h _ _ fun x s h => howner x s0 s h

end

/-- Every command completes: of each, what its operations keep. -/
theorem exec_completes (c : Instr) (s : State) : Completes s (exec c s) := by
  cases c with
  | fullReset t => exact completes_of_keeps t s (keeps_fullResetState (.refl _))
  | resetRelease t =>
    have h : Keeps (s.at t) (if s.inReset then releaseReset (s.at t) else s.at t) :=
      keeps_ite (keeps_releaseReset (.refl _)) (.refl _)
    exact completes_of_keeps t s h
  | imageReadDone t data => exact event_completes t s fun _ _ h => keeps_imageRead h data
  | rereadTimerExpiry t => exact event_completes t s fun _ _ h => keeps_rereadExpires h
  | listenTimerExpiry t =>
    exact zoneEvent_completes (f := fun s => if listenOver s then enterService s else s) t s fun _ _ h => keeps_ite (keeps_enterService h) h
  | restartMoment t =>
    exact event_completes (f := fun s => if restartDue s then restartBegins s else s) t s fun _ _ h => keeps_ite (keeps_restartBegins h) h
  | minuteBoundary t => exact event_completes t s fun _ _ h => keeps_crossMinute h
  | slewPeriodExpiry t => exact event_completes t s fun _ _ h => keeps_slewExpires h
  | ageTimerExpiry t => exact event_completes t s fun _ _ h => keeps_ageTimerOut h
  | timePeriodExpiry t => exact event_completes t s fun _ _ h => keeps_timeTimerOut h
  | time t src p => exact event_completes t s (keeps_heard src _ _ fun x _ _ h => keeps_takeTime h _ x)
  | setTime t src p => exact event_completes t s (keeps_heard src _ _ fun x _ _ h => keeps_serveSetTime h _ x)
  | playNow t src p => exact event_completes t s (keeps_heard src _ _ fun x _ _ h => keeps_servePlayNow h _ x)
  | quietUntil t src p => exact event_completes t s (keeps_heard src _ _ fun x _ _ h => keeps_serveQuiet h _ x)
  | statusQuery t src p => exact event_completes t s (keeps_heard src _ _ fun x _ _ h => keeps_serveQuery h _ x)
  | restart t src p => exact zoneEvent_completes t s (keeps_heard src _ _ fun x _ _ h => keeps_serveRestart h _ x)
  | hello t src p => exact zoneEvent_completes t s (keeps_heard src _ _ fun _ _ _ h => keeps_takeHello h _)
  | fault t src p => exact event_completes t s fun _ _ h => keeps_hear h src _ id fun _ h => h
  | status t src p => exact event_completes t s fun _ _ h => keeps_hear h src _ id fun _ h => h
  | unknownKindFrame t kind src p => exact event_completes t s fun _ _ h => keeps_hear h src _ id fun _ h => h
  | frameBroken t cause => exact event_completes t s fun _ _ h => keeps_breakFrame h cause
  | frameCheckFail t => exact event_completes t s fun _ _ h => keeps_checkFails h
  | callDelayExpiry t => exact event_completes t s fun _ _ h => keeps_callDelayOut h
  | call t src p => exact event_completes t s (keeps_heard src _ _ fun x _ _ h => keeps_takeCall h _ x)
  | menu t src p => exact event_completes t s (keeps_heard src _ _ fun x _ _ h => keeps_takeMenu h _ x)
  | windowTimerExpiry t => exact event_completes t s fun _ _ h => keeps_windowOut h
  | agreeWaitExpiry t => exact event_completes t s fun _ _ h => keeps_agreeWaitOut h
  | agree t src p => exact event_completes t s (keeps_heard src _ _ fun x _ _ h => keeps_takeAgree h _ x)
  | withdraw t src p => exact event_completes t s (keeps_heard src _ _ fun x _ _ h => keeps_takeWithdraw h _ x)
  | leadInExpiry t => exact event_completes t s fun _ _ h => keeps_leadInOut h
  | ready t src p => exact event_completes t s (keeps_heard src _ _ fun x _ _ h => keeps_takeReady h _ _ _)
  | gateTimerExpiry t => exact event_completes t s fun _ _ h => keeps_gateTimerOut h
  | go t src p => exact zoneEvent_completes t s (keeps_heard src _ _ fun x _ _ h => keeps_takeGo h _ x)
  | settleTimerExpiry t => exact zoneEvent_completes t s fun _ _ h => keeps_settleOut h
  | headerReadDone t data => exact zoneEvent_completes t s fun _ _ h => keeps_headerReadEnds h data
  | blockReadDone t data => exact zoneEvent_completes t s fun _ _ h => keeps_blockReadEnds h data
  | cueDue t => exact zoneEvent_completes t s fun _ _ h => keeps_playDue h
  | strikeDispatch t => exact event_completes t s fun _ _ h => keeps_leadDue h
  | wakeUpDue t => exact event_completes t s fun _ _ h => keeps_wakeUpsDue h
  | partEnd t => exact zoneEvent_completes t s fun _ _ h => keeps_endParts _ h
  | beatMark t => exact event_completes t s fun _ _ h => keeps_giveMark h
  | strikeDue t => exact event_completes t s fun _ _ h => keeps_strikesDue h
  | lateDeadline t => exact event_completes t s fun _ _ h => keeps_dropLate h
  | pulseEnd t bell => exact event_completes t s fun _ _ h => keeps_pulseOut h bell
  | recoveryEnd t bell => exact event_completes t s fun _ _ h => keeps_recoveryOut h bell
  | heatPeriodExpiry t => exact event_completes t s fun _ _ h => keeps_heatOut h
  | damperDrop t bell => exact event_completes t s fun _ _ h => keeps_damperOut h bell
  | settlingDone t =>
    exact event_completes (f := fun s => if settled s then enterIdle s else s) t s fun _ _ h => keeps_ite (keeps_enterIdle h) h
  | sensorPinChange t n high => exact completes_of_keeps t s (keeps_pinChange (.refl _) n high)
  | sensorFilterExpiry t n => exact zoneEvent_completes t s fun _ _ h => keeps_sensorFilterOut h n
  | encoderFilterExpiry t n => exact zoneEvent_completes t s fun _ _ h => keeps_encoderFilterOut h n
  | jamTimerExpiry t f => exact event_completes t s fun _ _ h => keeps_jamOut h f
  | coastTimerExpiry t f => exact event_completes t s fun _ _ h => keeps_coastOut h f
  | reversalHoldExpiry t f => exact event_completes t s fun _ _ h => keeps_holdOut h f
  | homingLimitExpiry t f => exact event_completes t s fun _ _ h => keeps_homingLimitOut h f
  | jamHomingWaitExpiry t f => exact zoneEvent_completes t s fun _ _ h => keeps_jamWaitOut h f
  | ownClaimWindowEnd t => exact zoneEvent_completes t s fun _ _ h => keeps_ownWindowsEnd h
  | peerClaimWindowEnd t => exact event_completes t s fun _ _ h => keeps_peerWindowsEnd h
  | claim t src p => exact zoneEvent_completes t s (keeps_heard src _ _ fun x _ _ h => keeps_serveClaim h _ x)
  | reassert t src p => exact zoneEvent_completes t s (keeps_heard src _ _ fun x _ _ h => keeps_serveReassert h _ x)
  | release t src p => exact zoneEvent_completes t s (keeps_heard src _ _ fun x _ _ h => keeps_takeRelease h _ x)
  | silenceTimerExpiry t n =>
    exact zoneEvent_completes (f := fun s => if silenceDue s n then silenceExpires n s else s) t s fun _ _ h => keeps_ite (keeps_silenceExpires h n) h
  | attemptStart t => exact event_completes t s fun _ _ h => keeps_attemptStarts h
  | collision t => exact event_completes t s fun _ _ h => keeps_collide h
  | breakEnd t => exact event_completes t s fun _ _ h => keeps_breakEnds h
  | frameSent t => exact zoneEvent_completes t s fun _ _ h => keeps_frameIsSent h
  | readyRequeue t => exact event_completes t s fun _ _ h => keeps_requeueReady h
  | releaseRequeue t => exact event_completes t s fun _ _ h => keeps_requeueReleases h
  | helloRequeue t => exact event_completes t s fun _ _ h => keeps_requeueHello h
  | claimRetryTrial t => exact zoneEvent_completes t s fun _ _ h => keeps_retryClaim h
  | railMeasurement t v => exact event_completes t s fun _ _ h => keeps_measureRail h v
  | lampPeriod t => exact event_completes t s fun _ _ h => keeps_lampPeriodBegins h
  | pwmPeriod t => exact event_completes t s fun _ _ h => keeps_modChr h _
  | strobePulseEnd t => exact event_completes t s fun _ _ h => keeps_strobeOut h
  | characterReceived t data mark => exact event_completes t s fun _ _ h => keeps_takeCharacter h data mark

/-- Settles O4, by `exec_completes`. -/
theorem everyCommandCompletes : Obligations.EveryCommandCompletes := by
  intro c s
  obtain ⟨u, hu, hnow, hpending, -⟩ := exec_completes c s
  exact ⟨u, hu, hnow, hpending⟩

/-! ## Steps and the reset state -/

theorem step_cons {c : Instr} {rest : List Instr} {s : State} (h : s.pending = c :: rest) :
    step s = exec c { s with pending := rest } := by
  simp only [step, h]

theorem step_nil {s : State} (h : s.pending = []) : step s = .next s := by
  simp only [step, h]

/-- Settles O1. -/
theorem stepRunsFrontCommand : Obligations.StepRunsFrontCommand :=
  fun _ _ _ h => step_cons h

/-- Settles O59: a step without a command changes nothing, and the front command completes. -/
theorem everyStepKeepsTheBounds : Obligations.EveryStepKeepsTheBounds := by
  intro s u hs hstep
  rcases hp : s.pending with _ | ⟨c, rest⟩
  · rw [step_nil hp] at hstep
    cases hstep
    exact hs
  · rw [step_cons hp] at hstep
    obtain ⟨v, hv, -, -, hbounds⟩ := exec_completes c { s with pending := rest }
    rw [hv] at hstep
    cases hstep
    exact hbounds (hs.congr rfl rfl rfl rfl)

/-- Settles O58: each bound, of the values of `State.reset`. -/
theorem resetIsBounded : Obligations.ResetIsBounded where
  grade := by decide
  faults := by decide
  advisory := by decide
  suppressed := by decide
  moveSkipped := by decide
  rxBroken := by decide
  rxCheck := by decide
  txCollision := by decide
  stray := by decide
  queue := by decide

end Sys2Proof.Machine

/-! SUPPORT. Proofs about the transmit queue (chapter 9): what a full queue gives up, and what the owner of a lost frame
does. -/

namespace Sys2Proof.Machine

/-! ## The frame given up (R156) -/

/-- With a lower class among the frames not in transmission, the victim is the youngest of the lowest such class. -/
theorem victim_lower {cur : Option Nat} {r : Nat} {q : List TxFrame}
    (hlow : ∃ g ∈ q, cur ≠ some g.id ∧ classRank (frameClass g.content) < r) :
    ∃ l v rest, q = l ++ v :: rest ∧ victim cur r q = some v ∧ cur ≠ some v.id
      ∧ (∀ g ∈ q, cur ≠ some g.id → classRank (frameClass v.content) ≤ classRank (frameClass g.content))
      ∧ ∀ g ∈ rest, cur ≠ some g.id → classRank (frameClass g.content) ≠ classRank (frameClass v.content) := by
  let low := lowestRank r (q.filter fun f => cur != some f.id)
  let ofLow : TxFrame → Bool := fun f => cur != some f.id && classRank (frameClass f.content) == low
  obtain ⟨-, hmin, hreached⟩ := lowestRank_spec r (q.filter fun f => cur != some f.id)
  obtain ⟨g, hg, hcur, hrank⟩ := hlow
  have hmin' : ∀ g ∈ q, cur ≠ some g.id → low ≤ classRank (frameClass g.content) := fun g hg hcur =>
    hmin g (List.mem_filter.mpr ⟨hg, by simpa using hcur⟩)
  have hlt : low < r := (hmin' g hg hcur).trans_lt hrank
  have hvictim : victim cur r q = (q.filter ofLow).getLast? := by
    simp only [victim, List.filter_filter, ofLow]
    rw [if_pos hlt]
    simp only [Bool.and_comm, low]
  obtain ⟨x, hx, hxlow⟩ := hreached.resolve_left hlt.ne
  have hne : q.filter ofLow ≠ [] := by
    obtain ⟨hxq, hxcur⟩ := List.mem_filter.mp hx
    exact List.ne_nil_of_mem (List.mem_filter.mpr ⟨hxq, by simp [ofLow, low, hxlow, hxcur]⟩)
  obtain ⟨v, hv⟩ : ∃ v, (q.filter ofLow).getLast? = some v := ⟨_, List.getLast?_eq_some_getLast hne⟩
  obtain ⟨l, rest, hq, hvlow, hrest⟩ := split_at_last ofLow q v hv
  obtain ⟨hvcur, hvrank⟩ : cur ≠ some v.id ∧ classRank (frameClass v.content) = low := by
    simpa [ofLow] using hvlow
  refine ⟨l, v, rest, hq, hvictim.trans hv, hvcur, fun g hg hcur => hvrank ▸ hmin' g hg hcur, ?_⟩
  intro g hg hcur heq
  have := hrest g hg
  simp [ofLow, hcur, heq, hvrank] at this

theorem victim_none {cur : Option Nat} {r : Nat} {q : List TxFrame}
    (h : ∀ g ∈ q, cur ≠ some g.id → r ≤ classRank (frameClass g.content)) : victim cur r q = none := by
  obtain ⟨hle, -, hreached⟩ := lowestRank_spec r (q.filter fun f => cur != some f.id)
  refine if_neg fun hlt => ?_
  obtain ⟨x, hx, hxlow⟩ := hreached.resolve_left hlt.ne
  obtain ⟨hxq, hxcur⟩ := List.mem_filter.mp hx
  exact absurd (h x hxq (by simpa using hxcur)) (by omega)

/-- Frames told apart by their numbers: without the number of one, the others remain. -/
theorem filter_id_of_nodup {l rest : List TxFrame} {v : TxFrame}
    (h : ((l ++ v :: rest).map (·.id)).Nodup) :
    (l ++ v :: rest).filter (fun g => g.id != v.id) = l ++ rest := by
  simp only [List.map_append, List.map_cons, List.nodup_append, List.nodup_cons, List.mem_map, List.mem_cons] at h
  obtain ⟨-, ⟨hrest, -⟩, hdisjoint⟩ := h
  have hl : l.filter (fun g => g.id != v.id) = l := List.filter_eq_self.mpr fun g hg => by
    simpa using hdisjoint g.id ⟨g, hg, rfl⟩ v.id (Or.inl rfl)
  have hr : rest.filter (fun g => g.id != v.id) = rest := List.filter_eq_self.mpr fun g hg => by
    simpa using fun heq => hrest ⟨g, hg, heq⟩
  simp [hl, hr]

/-! ## The loss of a frame (R153) -/

/-- R121: the loss of a CLAIM sets its zones FREE, its request back to the head, and the retry moment. -/
theorem claimLost_eq (n : Nat) (s : State) : claimLost n s = { s with zon := { s.zon with
    reqs := backToHead n s.zon.reqs, claimRetry := some s.bus.frameEnds
    view := s.zon.view.map fun e => match e with
      | .pending st g w k => if st = ownNo s ∧ g = n then .free else .pending st g w k
      | _ => e } } := by
  have hview : (revertOwnGroup n s).zon.view = s.zon.view.map fun e => match e with
      | .pending st g w k => if st = ownNo s ∧ g = n then .free else .pending st g w k
      | _ => e := List.map_congr_left fun e _ => by cases e <;> rfl
  calc claimLost n s
      = { s with zon := { s.zon with
          reqs := backToHead n s.zon.reqs, claimRetry := some s.bus.frameEnds
          view := (revertOwnGroup n s).zon.view } } := rfl
    _ = _ := by rw [hview]

theorem callLost_eq (n : Nat) (s : State) : callLost n s =
    if s.she.engine = .calling ∧ (∃ g, s.she.gather = some g ∧ g.callFrame = n) then
      raiseFault .slotLost (ownNo s) (idleAt s.now s) else s := by
  unfold callLost
  cases hg : s.she.gather with
  | none => simp
  | some g => simp [and_comm, enterIdle_eq s.now s rfl]

theorem menuLost_eq (n : Nat) (s : State) : menuLost n s = match s.she.answer with
    | some a =>
      if s.she.engine = .answered ∧ a.menuFrame = n then raiseFault .slotLost a.caller (idleAt s.now s) else s
    | none => s := by
  unfold menuLost
  cases s.she.answer <;> simp [and_comm, enterIdle_eq s.now s rfl]

theorem agreeLost_eq (n : Nat) (s : State) : agreeLost n s = match s.she.gather, s.she.pend with
    | some g, some p =>
      if s.she.engine = .calling ∧ g.agree.map (·.frame) = some n then
        raiseFault .slotLost (ownNo s) { idleAt s.now s with sck := s.sck.dealt g.slot p.day } else s
    | _, _ => s := by
  unfold agreeLost
  cases s.she.gather <;> cases s.she.pend <;> try rfl
  simp only [and_comm, enterIdle_eq s.now s rfl, writeLastSlot_dealt]
  rfl

theorem readyLost_eq (n : Nat) (s : State) : readyLost n s = match s.gtu.gate with
    | some g =>
      if g.phase = .readyQueued ∧ g.readyFrame = some n then { s with gtu := { s.gtu with
        gate := some { g with readyFrame := none, readyLost := some s.bus.frameEnds } } } else s
    | none => s := by
  unfold readyLost
  cases s.gtu.gate <;> simp [and_comm, State.modGtu]

theorem goLost_eq (n : Nat) (s : State) : goLost n s = match s.gtu.gate with
    | some g =>
      if g.phase = .ready ∧ g.goFrame = some n then { s with gtu := { s.gtu with
        gate := some { g with goFrame := none, timer := some (s.now + 100000) } } } else s
    | none => s := by
  unfold goLost
  cases s.gtu.gate <;> simp [and_comm, State.modGtu]

/-- Settles O24: the victim of a full queue, `queueFrame` by its definition, and the loss by kind of frame. -/
theorem fullQueueDisplacesTheLowestClass : Obligations.FullQueueDisplacesTheLowestClass := by
  refine ⟨fun cur q f hfull hids => ⟨fun hlow => ?_, fun hno => ?_⟩, fun c s => ?_, fun f s => ?_⟩
  · obtain ⟨l, v, rest, hq, hv, hcur, hmin, hyoungest⟩ := victim_lower hlow
    refine ⟨l, v, rest, hq, ?_, hcur, hmin, hyoungest⟩
    have hgone : q.filter (fun g => g.id != v.id) = l ++ rest := by
      subst hq
      exact filter_id_of_nodup hids
    simp [queueEntry, hfull, hv, hgone]
  · simp [queueEntry, hfull, victim_none hno]
  · rfl
  · rcases f with ⟨id, c⟩
    cases c with
    | call => exact callLost_eq id s
    | menu => exact menuLost_eq id s
    | agree => exact agreeLost_eq id s
    | ready => exact readyLost_eq id s
    | go => exact goLost_eq id s
    | claim reassert zones =>
      cases reassert
      · exact claimLost_eq id s
      · rfl
    | hello | time | withdraw | release | fault | status => rfl

end Sys2Proof.Machine

/-! SUPPORT. Proofs about a STOP fault that mutes the station (R172), and the own number heard from elsewhere (R150). -/

namespace Sys2Proof.Machine

/-! ## A muting STOP fault (R114, R131, R172) -/

/-- `s` with the STOP fault recorded, STOPPED and muted, its queue emptied, before its units are told. -/
def stopping (code : FaultCode) (detail : Nat) (s : State) : State :=
  emptyQueue ((recordFault code detail s).modIml fun i =>
    { i with station := .stopped, muted := true, listen := none, restart := i.restart.goOn })

theorem stopMuted_eq (code : FaultCode) (detail : Nat) (s : State) :
    stopMuted code detail s = muteZones (muteFigures (engineStops (stopping code detail s))) := rfl

theorem stopping_kept (code : FaultCode) (detail : Nat) (s : State) :
    Kept (stopping code detail s) (engineStops (stopping code detail s)) :=
  engineStops_kept _ rfl rfl

theorem muteZones_eq (s : State) :
    muteZones s = { s with bus := (removeFrames isZoneFrame s).bus, zon := (muteZones s).zon } := rfl

theorem figRun_muteZones (s : State) (f : Nat) : figRun (muteZones s) f = figRun s f := rfl

theorem muteFigures_eq (s : State) : muteFigures s =
    { s with fig := { s.fig with run := (muteFigures s).fig.run } } := by
  obtain ⟨⟨r, hr, -⟩, -⟩ := muteFigures_run s 0
  rw [hr]

theorem muteZones_held {s : State} {z st : Nat} {f : Option Nat} (h : zoneAt s z = .held st f) :
    zoneAt (muteZones s) z = .held st f := by
  have hview : s.zon.view[z]? = some (.held st f) := by
    cases hz : s.zon.view[z]? with
    | none => simp [zoneAt, hz] at h
    | some e => simpa [zoneAt, hz] using h
  simp [zoneAt, muteZones, mapView, State.modZon, removeFrames, State.modBus, hview]

/-- Muting a figure once more, or one whose jam wait has begun, comes to muting it. -/
theorem muteFigure_absorbs {now : Nat} {q r : FigRun} (h : q = r ∨ q = startJamWait now r ∨ q = muteFigure now r) :
    muteFigure now q = muteFigure now r := by
  rcases h with rfl | rfl | rfl
  · rfl
  · unfold startJamWait
    split <;> rfl
  · simp only [muteFigure, FigRun.off]
    cases r.state <;> rfl

/-- R114: a figure under way has to home again. -/
theorem muteFigure_state (now : Nat) (r : FigRun) : (muteFigure now r).state =
    if r.state ∈ [FigState.waitZone, .moving, .paused, .homing] then .unhomed else r.state := by
  obtain ⟨state, _⟩ := r
  cases state <;> rfl

section
variable (code : FaultCode) (detail : Nat) (s : State)

theorem stopMuted_iml : (stopMuted code detail s).iml =
    { s.iml with station := .stopped, muted := true, listen := none, restart := s.iml.restart.goOn } := by
  rw [stopMuted_eq, muteZones_eq, muteFigures_eq]
  exact (stopping_kept code detail s).iml

theorem stopMuted_queue : (stopMuted code detail s).bus.queue = [] := by
  rw [stopMuted_eq, muteZones_eq, muteFigures_eq]
  simp [removeFrames, State.modBus, (stopping_kept code detail s).queue]

theorem stopMuted_peers : (stopMuted code detail s).bus.peers = s.bus.peers := by
  rw [stopMuted_eq, muteZones_eq, muteFigures_eq]
  exact (stopping_kept code detail s).peers

theorem stopMuted_dup : (stopMuted code detail s).bus.dup = s.bus.dup := by
  rw [stopMuted_eq, muteZones_eq, muteFigures_eq]
  exact (stopping_kept code detail s).dup

theorem stopMuted_rest : ZonesAtRest (stopMuted code detail s) := ⟨rfl, rfl⟩

theorem faultPin_stopMuted : faultPin (stopMuted code detail s) = true := by
  simp [faultPin, stopMuted_iml]

/-- The record of the fault is in the list, behind that of the withdrawal from a show at most. -/
theorem stopMuted_record :
    (⟨code, detail, dayNo s, minuteOfDay s⟩ : FaultRec) ∈ (stopMuted code detail s).flt.list := by
  obtain ⟨l, hl⟩ := (stopping_kept code detail s).flt
  have hstop : (stopping code detail s).flt.list
      = ⟨code, detail, dayNo s, minuteOfDay s⟩ :: s.flt.list.take 7 := rfl
  rw [stopMuted_eq, muteZones_eq, muteFigures_eq]
  rcases hl with ⟨hlist, hlen⟩ | hlist
  · rw [hlist, hstop, List.take_append]
    exact List.mem_append_right _ (by
      obtain ⟨n, hn⟩ : ∃ n, 8 - l.length = n + 1 := ⟨7 - l.length, by omega⟩
      rw [hn]
      exact List.mem_cons_self)
  · rw [hlist, hstop]
    exact List.mem_cons_self

theorem stopMuted_held {z st : Nat} {f : Option Nat} (h : zoneAt s z = .held st f) :
    zoneAt (stopMuted code detail s) z = .held st f := by
  refine muteZones_held (?_ : zoneAt (muteFigures _) z = _)
  rw [muteFigures_eq]
  exact (congrArg (fun v : Zon => v.view.getD z .free) (stopping_kept code detail s).zon).trans h

/-- Every configured figure is muted (R114). -/
theorem figRun_stopMuted {f : Nat} (hf : f ≤ 6) (hlen : f < s.fig.run.length) (hrec : figRec s f ≠ none) :
    figRun (stopMuted code detail s) f = muteFigure s.now (figRun s f) := by
  have hk := stopping_kept code detail s
  have hrun := (muteFigures_run (engineStops (stopping code detail s)) f).2
  have hnow : (engineStops (stopping code detail s)).now = s.now := hk.now
  have hmem : f ∈ figNumbers (engineStops (stopping code detail s)) := by
    refine List.mem_filter.mpr ⟨List.mem_range.mpr (by omega), ?_⟩
    rw [Option.isSome_iff_ne_none, figRec, hk.figs]
    exact hrec
  rw [if_pos ⟨hmem, hk.len ▸ hlen⟩, hnow] at hrun
  rw [stopMuted_eq, figRun_muteZones, hrun]
  exact muteFigure_absorbs (hk.run f hlen)

end

/-! ## The own number heard (R150) -/

/-- `s` as a good frame of the own number that ended at `t` leaves it. -/
def duplicatedAt (t : Nat) (s : State) : State := duplicate (frameEnds { s with now := t })

section
variable {t : Nat} {src : Byte} {s : State} (hlive : Live t s) (hrx : s.bus.rxOn = true) (htx : s.bus.tx ≠ .sending)
  (hst : s.iml.station ≠ .starting) (hown : s.iml.number = some src.toNat)
include hrx htx hst hown

theorem hear_own (isTime : Bool) (owner : State → State) :
    hear src isTime owner { s with now := t } = duplicatedAt t s := by
  have hreceives : receives { s with now := t } = true := by simp [receives, isSending, hrx, htx]
  simp [hear, hreceives, hst, hown, duplicatedAt]

include hlive

theorem event_hear_own (isTime : Bool) (owner : State → State) :
    event t (hear src isTime owner) s = .next (duplicatedAt t s) := by
  rw [event_live hlive, hear_own hrx htx hst hown]

theorem zoneEvent_hear_own (hdup : s.bus.dup = false) (isTime : Bool) (owner : State → State) :
    zoneEvent t (hear src isTime owner) s = .next (duplicatedAt t s) := by
  have heq := hear_own (t := t) hrx htx hst hown isTime owner
  have hrest : ZonesAtRest (duplicatedAt t s) := by
    rw [duplicatedAt, duplicate, if_neg (show ¬(frameEnds { s with now := t }).bus.dup = true by
      simpa [frameEnds, lineCharacter, State.modBus] using hdup)]
    exact stopMuted_rest _ _ _
  rw [zoneEvent_rest hlive _ (heq ▸ hrest), heq]

end

/-- Settles O19: every kind of frame comes to `duplicatedAt`, a muting STOP fault. -/
theorem ownNumberHeardStopsAndMutes : Obligations.OwnNumberHeardStopsAndMutes := by
  intro t src p c s hlive hrx htx hst hown hdup hc
  have hexec : exec c s = .next (duplicatedAt t s) := by
    have hevent := event_hear_own hlive hrx htx hst hown
    have hzone := zoneEvent_hear_own hlive hrx htx hst hown hdup
    simp only [List.mem_cons, List.not_mem_nil, or_false] at hc
    rcases hc with rfl | rfl | rfl | rfl | rfl | rfl | rfl | rfl | rfl | rfl | rfl | rfl | rfl | rfl | rfl | rfl | rfl
      | rfl | rfl
    exacts [hevent _ _, hevent _ _, hevent _ _, hevent _ _, hevent _ _, hzone _ _, hzone _ _, hevent _ _, hevent _ _,
      hevent _ _, hevent _ _, hevent _ _, hevent _ _, hevent _ _, hevent _ _, hzone _ _, hzone _ _, hzone _ _,
      hzone _ _]
  let v : State := (frameEnds { s with now := t }).modBus fun b => { b with dup := true }
  have hu : duplicatedAt t s = stopMuted .dupStation src.toNat v := by
    have hno : ownNo (frameEnds { s with now := t }) = src.toNat := by
      change s.iml.number.getD 0 = _
      rw [hown]
      rfl
    rw [duplicatedAt, duplicate, if_neg (by simp [frameEnds, lineCharacter, State.modBus, hdup]), hno]
  refine ⟨_, hexec, ?_⟩
  rw [hu]
  refine ⟨by rw [stopMuted_iml], by rw [stopMuted_iml], stopMuted_dup _ _ v, stopMuted_queue _ _ v,
    stopMuted_peers _ _ v, faultPin_stopMuted _ _ v, stopMuted_record _ _ v, ?_, fun z st f h => stopMuted_held _ _ v h⟩
  intro f hf hlen hrec
  rw [figRun_stopMuted _ _ v hf hlen hrec]
  refine ⟨rfl, rfl, rfl, rfl, rfl, ?_⟩
  exact muteFigure_state v.now (figRun v f)

end Sys2Proof.Machine

/-! SUPPORT. Proofs about the selection of the programme at the end of the gather window (R28, R29). -/

namespace Sys2Proof.Machine

/-- R28: a programme is among the candidates where the menus hold it and the slot allows it. -/
theorem mem_candidates_iff (s : State) (p : PendingSlot) (g : Gather) (q : Nat) :
    Bits.mem (candidates s p g) q = true ↔ q < 32 ∧ Bits.mem g.menu q = true
      ∧ (q = 0 ∨ Bits.mem (allowedSet s p) q = true) ∧ ∀ a ∈ g.answers, Bits.mem a.2 q = true := by
  have hmem : Bits.mem (candidates s p g) q = true ↔
      (Bits.mem g.menu q = true ∧ ∀ a ∈ g.answers, Bits.mem a.2 q = true)
        ∧ Bits.mem (Bits.insert (allowedSet s p) 0) q = true := by
    rw [← foldAnd, candidates]
    simp only [Bits.mem, BitVec.getLsbD_and, Bool.and_eq_true]
  rw [hmem, mem_insert]
  simp only [Bool.or_eq_true, Bool.and_eq_true, decide_eq_true_eq]
  constructor
  · rintro ⟨⟨hmenu, hanswers⟩, hallowed⟩
    have hlt : q < 32 := BitVec.lt_of_getLsbD hmenu
    exact ⟨hlt, hmenu, hallowed.symm.imp_left And.left, hanswers⟩
  · rintro ⟨hlt, hmenu, hallowed, hanswers⟩
    exact ⟨⟨hmenu, hanswers⟩, hallowed.symm.imp_right fun h => ⟨h, hlt⟩⟩

theorem mem_allowedSet_iff (s : State) (p : PendingSlot) {q : Nat} (hq : q < 32) :
    Bits.mem (allowedSet s p) q = match p.requested with
      | some r => q == r
      | none => match entryInForce s with
        | some e => Bits.mem e.allowed q
        | none => false := by
  unfold allowedSet
  cases p.requested with
  | some r =>
    rw [mem_ofList]
    simp [hq, beq_eq_decide]
  | none => cases entryInForce s <;> simp

/-- R28: the choice is a candidate, the preferred one if it is among them, else one of the highest rank and the lowest
such. -/
theorem choose_spec {s : State} {p : PendingSlot} {g : Gather} (h0 : Bits.mem (candidates s p g) 0 = true) :
    Bits.mem (candidates s p g) (choose s p g) = true
      ∧ (Bits.mem (candidates s p g) g.pref = true → choose s p g = g.pref)
      ∧ (¬Bits.mem (candidates s p g) g.pref = true → ∀ r, Bits.mem (candidates s p g) r = true →
        rankOf s r < rankOf s (choose s p g)
          ∨ (rankOf s r = rankOf s (choose s p g) ∧ choose s p g ≤ r)) := by
  by_cases hpref : Bits.mem (candidates s p g) g.pref = true
  · have hchoose : choose s p g = g.pref := if_pos hpref
    exact ⟨hchoose ▸ hpref, fun _ => hchoose, fun hnot => absurd hpref hnot⟩
  · have hchoose : choose s p g = bestRank s (Bits.toList (candidates s p g)) := if_neg hpref
    obtain ⟨hfrom, hbest⟩ := bestRank_spec s (Bits.toList (candidates s p g)) 0
    have hlow := bestRank_low s (Bits.toList (candidates s p g)) 0
      (List.pairwise_cons.mpr ⟨fun _ _ => Nat.zero_le _, toList_sorted _⟩)
    rw [hchoose]
    refine ⟨?_, fun hp => absurd hp hpref, fun _ r hr => ?_⟩
    · rcases hfrom with hzero | hin
      · exact (show bestRank s _ = 0 from hzero) ▸ h0
      · exact ((mem_toList _ _).mp hin).2
    · have hin : r ∈ 0 :: Bits.toList (candidates s p g) :=
        List.mem_cons_of_mem _ ((mem_toList _ _).mpr ⟨BitVec.lt_of_getLsbD hr, hr⟩)
      exact (Nat.lt_or_eq_of_le (hbest r hin)).imp_right fun heq => ⟨heq, hlow r hin heq⟩

/-- R29: the strike hour of a slot, worked from one hour of the day. -/
theorem hourOfSlot_eq (s : State) (slot : Nat) : hourOfSlot s slot =
    let h := (if slot = 2047 then minuteOfDay s / 60 else slot / 60) % 12
    if h = 0 then 12 else h := by
  unfold hourOfSlot strikeHour
  split <;> rfl

theorem agreedLevel_eq (l : Level) : agreedLevel l = if l = .opened then .opened else .quiet := by
  cases l <;> rfl

/-- R28, R29: the window's end, where the queue has room: the choice and the AGREE queued for it. -/
theorem exec_windowTimerExpiry {t e : Nat} {p : PendingSlot} {g : Gather} {s : State} (hlive : Live t s)
    (hcalling : s.she.engine = .calling) (hp : s.she.pend = some p) (hg : s.she.gather = some g)
    (hw : g.window = some e) (he : e ≤ t) (hroom : s.bus.queue.length < 8) :
    exec (.windowTimerExpiry t) s =
      let a : AgreeRec := ⟨s.bus.nextId, choose { s with now := t } p g, agreedLevel g.level,
        hourOfSlot { s with now := t } g.slot, Bits.ofList 32 (ownNo s :: g.answers.map (·.1))⟩
      .next { s with
        now := t, bus := s.bus.queued (.agree g.slot a.prog a.level a.hour a.members)
        she := { s.she with gather := some { g with window := none, agree := some a } } } := by
  calc exec (.windowTimerExpiry t) s
      = event t windowOut s := rfl
    _ = .next (windowOut { s with now := t }) := event_live hlive _
    _ = .next (windowExpires p g { s with now := t }) := by
      simp [windowOut, hp, hg, hcalling, expired, hw, he]
    _ = _ := congrArg Host.Outcome.next (queueFrame_room _ _ hroom)

/-- Settles O30: the choice of `choose_spec`, in the AGREE that the window's end queues. -/
theorem windowEndChoosesTheProgramme : Obligations.WindowEndChoosesTheProgramme := by
  intro t e p g s hlive hcalling hp hg hw he hroom allowed cand rank h0
  let u : State := { s with now := t }
  have hcand : ∀ q, cand q ↔ Bits.mem (candidates u p g) q = true := by
    intro q
    rw [mem_candidates_iff]
    refine and_congr_right fun hq => and_congr_right fun _ => and_congr_left fun _ => ?_
    rw [mem_allowedSet_iff u p hq]
    simp only [allowed, Bool.or_eq_true, beq_iff_eq]
    rfl
  obtain ⟨hin, hpref, hbest⟩ := choose_spec ((hcand 0).mp h0)
  refine ⟨choose u p g, (hcand _).mpr hin, fun h => hpref ((hcand _).mp h),
    fun h r hr => hbest (fun h' => h ((hcand _).mpr h')) r ((hcand r).mp hr), ?_⟩
  rw [exec_windowTimerExpiry hlive hcalling hp hg hw he hroom, agreedLevel_eq, hourOfSlot_eq]

end Sys2Proof.Machine

/-! SUPPORT. Proofs about the Bell Unit (chapter 5): strikes handed over (R77 to R79), the arbiter (R80 to R85), pulse
ends, recoveries, dampers and heat (R76, R86, R88). -/

namespace Sys2Proof.Machine

/-! ## A strike handed over (R77 to R79) -/

/-- R7: the ceiling of the more restrictive of two levels. -/
theorem ceiling_restrictive (s : State) (a b : Level) : ceiling s (restrictive a b) =
    if a = .opened ∧ b = .opened then openCeiling s else min s.sck.quietCeiling (openCeiling s) := by
  unfold restrictive
  split <;> rfl

theorem openCeiling_eq (s : State) :
    openCeiling s = ((s.sck.entry.bind fun i => s.sck.calendar[i]?).map (·.openCeiling)).getD 0 := by
  unfold openCeiling entryInForce
  cases s.sck.entry <;> rfl

/-- R77: the effective velocity. -/
theorem effVelocity_eq (s : State) (v : Nat) : effVelocity s v =
    min (min v (if (s.she.showRec.map (·.level)).getD .quiet = .opened ∧ s.sck.level = .opened then openCeiling s
      else min s.sck.quietCeiling (openCeiling s))) (railCeiling s) := by
  rw [← ceiling_restrictive]
  rfl

theorem deadlinePassed_iff (s : State) (fire : Int) :
    deadlinePassed s fire = true ↔ fire + s.bel.tolerance * 1000 < s.now := by
  simp [deadlinePassed, toleranceUs]

theorem takeStrike_absent {s : State} {b : Nat} (h : bellRec s b = none) (v : Nat) (onset : Int) :
    takeStrike b v onset s = addSuppressed 1 s := by
  simp only [takeStrike, h]

section
variable {s : State} {b : Nat} {c : BellRec} {v : Nat} {onset : Int} (hc : bellRec s b = some c)
include hc

theorem takeStrike_suppressed (h : c.enabled = false ∨ effVelocity s v = 0) :
    takeStrike b v onset s = addSuppressed 1 s := by
  simp only [takeStrike, hc]
  exact if_pos h

variable (hon : c.enabled = true) (hvel : effVelocity s v ≠ 0)
include hon hvel

theorem takeStrike_late (h : deadlinePassed s (onset - strikeLead c (effVelocity s v)) = true) :
    takeStrike b v onset s = raiseFault .strikeLate b s := by
  simp [takeStrike, hc, hon, hvel, h]

theorem takeStrike_full (h : ¬deadlinePassed s (onset - strikeLead c (effVelocity s v)) = true)
    (hfull : 16 ≤ s.bel.strikes.length) : takeStrike b v onset s = raiseFault .strikeListFull b s := by
  simp [takeStrike, hc, hon, hvel, h, hfull]

theorem takeStrike_listed (h : ¬deadlinePassed s (onset - strikeLead c (effVelocity s v)) = true)
    (hroom : s.bel.strikes.length < 16) : takeStrike b v onset s =
      let vel := effVelocity s v
      let fire := onset - strikeLead c vel
      let u := { s with bel := { s.bel with
        strikes := insertStrike ⟨b, vel, strikeLead c vel, onset, fire, s.bel.nextIns⟩ s.bel.strikes
        nextIns := s.bel.nextIns + 1 } }
      if fire ≤ s.now then runArbiter u else u := by
  simp [takeStrike, hc, hon, hvel, h, Nat.not_le.mpr hroom, State.modBel]

end

/-- Settles O44: the five outcomes of `takeStrike`; what is listed stands in its place. -/
theorem strikesAreListedInFireOrder : Obligations.StrikesAreListedInFireOrder := by
  intro b v onset s open_ agreed vel
  have hvel : effVelocity s v = vel := by
    rw [effVelocity_eq, openCeiling_eq]
    rfl
  refine ⟨fun hc => takeStrike_absent hc v onset, ?_⟩
  intro c hc lead fire
  have hfire : onset - strikeLead c (effVelocity s v) = fire := by
    rw [hvel]
    rfl
  have hlate : deadlinePassed s (onset - strikeLead c (effVelocity s v)) = true
      ↔ fire + s.bel.tolerance * 1000 < s.now := by rw [hfire, deadlinePassed_iff]
  refine ⟨fun h => takeStrike_suppressed hc (hvel ▸ h),
    fun hon hv hl => takeStrike_late hc hon (hvel ▸ hv) (hlate.mpr hl),
    fun hon hv hl hfull => takeStrike_full hc hon (hvel ▸ hv) (fun h => absurd (hlate.mp h) (not_lt.mpr hl)) hfull,
    fun hon hv hl hroom => ?_⟩
  refine ⟨insertStrike ⟨b, vel, lead, onset, fire, s.bel.nextIns⟩ s.bel.strikes, insertStrike_perm _ _,
    fun hsorted hins => insertStrike_sorted _ _ hins hsorted, ?_⟩
  rw [takeStrike_listed hc hon (hvel ▸ hv) (fun h => absurd (hlate.mp h) (not_lt.mpr hl)) hroom, hvel]
  rfl

/-! ## The arbiter (R80 to R85) -/

/-- R80, R81: an entry is ready for a pulse slot. -/
theorem eligible_iff (s : State) (e : Strike) : eligible s e = true ↔
    e.fire ≤ s.now ∧ (s.now : Int) ≤ e.fire + s.bel.tolerance * 1000 ∧ (bellRun s e.bell).hammer = .idle := by
  simp [eligible, strikeDue, deadlinePassed, toleranceUs, and_assoc]

/-- With no entry eligible the arbiter chooses none. -/
theorem arbitrate_none {s : State} (h : ∀ x ∈ s.bel.strikes, ¬eligible s x = true) (n : Nat) :
    arbitrate n s = s := by
  cases n with
  | zero => rfl
  | succ n =>
    have hfind : s.bel.strikes.find? (eligible s) = none := List.find?_eq_none.mpr h
    simp only [arbitrate, hfind, ite_self]

theorem bellRun_hammer_set {l : List BellRun} {b k : Nat} {q : BellRun} (hq : q.hammer ≠ .idle)
    (h : ((l.set k q).getD b BellRun.rest).hammer = .idle) : (l.getD b BellRun.rest).hammer = .idle := by
  simp only [List.getD_eq_getElem?_getD, List.getElem?_set] at h ⊢
  split at h
  · split at h
    · exact absurd h hq
    · simp_all
  · exact h

theorem idle_of_startPulse {c : BellRec} {e : Strike} {w b : Nat} {s : State}
    (h : (bellRun (startPulse c e w s) b).hammer = .idle) : (bellRun s b).hammer = .idle :=
  bellRun_hammer_set (q := ⟨.pulsing _, _, _⟩) nofun h

/-- An entry that stands once in the list leaves it. -/
theorem removeStrike_once {s : State} {l r : List Strike} {e : Strike} (hs : s.bel.strikes = l ++ e :: r)
    (h : ∀ x ∈ l ++ r, x ≠ e) : removeStrike e s = { s with bel := { s.bel with strikes := l ++ r } } := by
  have hl : l.filter (· != e) = l := List.filter_eq_self.mpr fun x hx => by
    simpa using h x (List.mem_append_left _ hx)
  have hr : r.filter (· != e) = r := List.filter_eq_self.mpr fun x hx => by
    simpa using h x (List.mem_append_right _ hx)
  simp only [removeStrike, State.modBel, hs, List.filter_append, List.filter_cons, bne_self_eq_false, hl, hr,
    Bool.false_eq_true, if_false]

/-- R84, R85: what becomes of the chosen entry, the heat account allowing `w`, less, or none. -/
theorem fireStrike_eq {s : State} {e : Strike} {c : BellRec} (hc : bellRec s e.bell = some c) :
    let heat := (bellRun s e.bell).heat
    let w := curveWidth c.curve (widthVelocity s e.vel)
    fireStrike e s =
      if heat + w ≤ c.heatLimit then startPulse c e w s
      else if c.minWidth ≤ c.heatLimit - heat then
        raiseFault .thermalTrim e.bell (startPulse c e (c.heatLimit - heat) s)
      else raiseFault .thermalSkip e.bell (removeStrike e s) := by
  intro heat w
  by_cases hfits : heat + w ≤ c.heatLimit
  · simp [fireStrike, hc, heatCheck, hfits, heat, w]
  · by_cases htrim : c.minWidth ≤ c.heatLimit - heat
    · simp [fireStrike, hc, heatCheck, hfits, htrim, heat, w]
    · simp [fireStrike, hc, heatCheck, hfits, htrim, heat, w]

theorem widthVelocity_eq (s : State) (vel : Nat) :
    widthVelocity s vel = if s.chr.rail = .normal then vel else min vel 64 := by
  unfold widthVelocity
  cases s.chr.rail <;> rfl

/-- R83: the curve of four points. -/
theorem curveWidth_four (v1 w1 v2 w2 v3 w3 v4 w4 v : Nat) :
    curveWidth [(v1, w1), (v2, w2), (v3, w3), (v4, w4)] v =
      if v ≤ v1 then w1
      else if v ≤ v2 then w1 + (w2 - w1) * (v - v1) / (v2 - v1)
      else if v ≤ v3 then w2 + (w3 - w2) * (v - v2) / (v3 - v2)
      else if v ≤ v4 then w3 + (w4 - w3) * (v - v3) / (v4 - v3)
      else w4 := by
  simp only [curveWidth]
  split_ifs <;> rfl

/-- Of a state that differs in its strikes, its hammers at most having begun to pulse, an entry is eligible only where
it was. -/
theorem eligible_of_later {s u : State} (hnow : u.now = s.now) (htol : u.bel.tolerance = s.bel.tolerance)
    {x : Strike} (hidle : (bellRun u x.bell).hammer = .idle → (bellRun s x.bell).hammer = .idle)
    (h : eligible u x = true) : eligible s x = true := by
  rw [eligible_iff, hnow, htol] at h
  rw [eligible_iff]
  obtain ⟨hfire, hlate, hham⟩ := h
  exact ⟨hfire, hlate, hidle hham⟩

/-- R81: with a slot free and one entry eligible, the arbiter comes to that entry's pulse. -/
theorem runArbiter_one {s : State} {l r : List Strike} {e : Strike} {c : BellRec} (hrail : s.chr.rail ≠ .cut)
    (hslot : slotsHeld s < s.bel.k) (hs : s.bel.strikes = l ++ e :: r) (hc : bellRec s e.bell = some c)
    (he : eligible s e = true) (hothers : ∀ x ∈ l ++ r, ¬eligible s x = true) :
    runArbiter s = fireStrike e s := by
  have hne : ∀ x ∈ l ++ r, x ≠ e := fun x hx heq => hothers x hx (heq ▸ he)
  have hfind : s.bel.strikes.find? (eligible s) = some e := by
    rw [hs, List.find?_append, List.find?_eq_none.mpr fun x hx => hothers x (List.mem_append_left _ hx),
      List.find?_cons_of_pos he]
    rfl
  have hstep : runArbiter s = arbitrate 15 (fireStrike e s) := by
    simp only [runArbiter, arbitrate, hrail, hslot, hfind, ne_eq, not_false_eq_true, and_self, if_true]
  have hpulse : ∀ w, (startPulse c e w s).bel.strikes = l ++ r := fun w => by
    simp [startPulse, modBellRun, State.modBel, removeStrike_once hs hne]
  have hquiet : ∀ w, ∀ x ∈ l ++ r, ¬eligible (startPulse c e w s) x = true := fun w x hx hel =>
    hothers x hx (eligible_of_later (s := s) (u := startPulse c e w s) rfl rfl idle_of_startPulse hel)
  have hraised : ∀ (f : FaultCode) (d : Nat) (u : State) (x : Strike), eligible (raiseFault f d u) x = eligible u x :=
    fun f d u x => by rw [raiseFault_eq]; rfl
  rw [hstep]
  refine arbitrate_none (s := fireStrike e s) ?_ 15
  rw [fireStrike_eq hc]
  split_ifs
  · rw [hpulse]
    exact hquiet _
  · rw [raiseFault_bel, hpulse]
    intro x hx
    rw [hraised]
    exact hquiet _ x hx
  · rw [raiseFault_bel, removeStrike_once hs hne]
    intro x hx
    rw [hraised]
    exact hothers x hx

/-- R82: the one entry whose late deadline has come is removed. -/
theorem dropLate_one {s : State} {l r : List Strike} {e : Strike} (hs : s.bel.strikes = l ++ e :: r)
    (he : e.fire + s.bel.tolerance * 1000 ≤ s.now)
    (hothers : ∀ x ∈ l ++ r, (s.now : Int) < x.fire + s.bel.tolerance * 1000) :
    dropLate s = raiseFault .strikeLate e.bell { s with bel := { s.bel with strikes := l ++ r } } := by
  have hreached : ∀ x, deadlineReached s x = true ↔ x.fire + s.bel.tolerance * 1000 ≤ s.now := fun x => by
    simp [deadlineReached, toleranceUs]
  have hnot : ∀ x ∈ l ++ r, ¬deadlineReached s x = true := fun x hx h =>
    absurd ((hreached x).mp h) (not_le.mpr (hothers x hx))
  have hfilter : s.bel.strikes.filter (deadlineReached s) = [e] := by
    rw [hs, List.filter_append, List.filter_cons_of_pos ((hreached e).mpr he),
      List.filter_eq_nil_iff.mpr fun x hx => hnot x (List.mem_append_left _ hx),
      List.filter_eq_nil_iff.mpr fun x hx => hnot x (List.mem_append_right _ hx)]
    rfl
  rw [dropLate, hfilter]
  exact congrArg (raiseFault .strikeLate e.bell)
    (removeStrike_once hs fun x hx heq => hnot x hx (heq ▸ (hreached e).mpr he))

/-- Settles O45: `suppressDue` under CUT, the arbiter's one choice, the late entry, and the curve. -/
theorem dueStrikesArePulsedOrRemoved : Obligations.DueStrikesArePulsedOrRemoved := by
  refine ⟨fun t s hlive => ⟨fun hcut => ?_, ?_⟩, fun t l r e s hlive hs he hothers => ?_, curveWidth_four⟩
  · calc exec (.strikeDue t) s
        = event t strikesDue s := rfl
      _ = .next (suppressDue { s with now := t }) := by
        rw [event_live hlive]
        exact congrArg _ (if_pos hcut)
      _ = _ := by rw [suppressDue_eq]
  · intro l r e c hrail hslot hs hc ready hready hothers heat w left damper pulse
    let u : State := { s with now := t }
    have hne : ∀ x ∈ l ++ r, x ≠ e := fun x hx heq => hothers x hx (heq ▸ hready)
    have hleft : removeStrike e u = left := removeStrike_once hs hne
    have hpulse : ∀ w, startPulse c e w u = pulse w := fun w => by
      have hdamper : (if hasDamper c then .upHeld else (bellRun s e.bell).damper) = damper := by
        cases hd : c.damper <;> simp [hasDamper, damper, hd]
      rw [startPulse, hleft]
      simp only [pulse, ← hdamper]
      rfl
    calc exec (.strikeDue t) s
        = event t strikesDue s := rfl
      _ = .next (runArbiter u) := by
        rw [event_live hlive]
        exact congrArg _ (if_neg hrail)
      _ = .next (fireStrike e u) := by
        rw [runArbiter_one (s := u) hrail hslot hs hc ((eligible_iff u e).mpr hready)
          fun x hx h => hothers x hx ((eligible_iff u x).mp h)]
      _ = _ := by
        rw [fireStrike_eq (s := u) hc, hleft, hpulse, hpulse, widthVelocity_eq]
        rfl
  · calc exec (.lateDeadline t) s
        = event t dropLate s := rfl
      _ = .next (dropLate { s with now := t }) := event_live hlive _
      _ = _ := by rw [dropLate_one (s := { s with now := t }) hs he hothers]

/-! ## Pulse end, recovery, dampers and heat (R76, R86, R88) -/

/-- Settles O46: each timer of a bell as it runs out, and the cooling of the configured bells. -/
theorem hammersRecoverAndCool : Obligations.HammersRecoverAndCool := by
  intro t s hlive
  refine ⟨?_, ?_, fun b e hup he => ?_, fun e htimer he => ?_⟩
  · intro b e c hpulsing he hc u
    refine ⟨?_, runArbiter_nil u⟩
    calc exec (.pulseEnd t b) s
        = event t (pulseOut b) s := rfl
      _ = .next (pulseOut b { s with now := t }) := event_live hlive _
      _ = .next (runArbiter u) := by
        have hham : (bellRun { s with now := t } b).hammer = .pulsing e := hpulsing
        have hbell : bellRec { s with now := t } b = some c := hc
        simp only [pulseOut, hham, he, if_true, endPulse, hbell]
        rfl
  · intro b e hrec he u
    refine ⟨?_, runArbiter_nil u⟩
    calc exec (.recoveryEnd t b) s
        = event t (recoveryOut b) s := rfl
      _ = .next (recoveryOut b { s with now := t }) := event_live hlive _
      _ = .next (runArbiter u) := by
        have hham : (bellRun { s with now := t } b).hammer = .recovering e := hrec
        simp only [recoveryOut, hham, he, if_true]
        rfl
  · calc exec (.damperDrop t b) s
        = event t (damperOut b) s := rfl
      _ = .next (damperOut b { s with now := t }) := event_live hlive _
      _ = _ := by
        have hdamper : (bellRun { s with now := t } b).damper = .up e := hup
        simp only [damperOut, hdamper, he, if_true]
        rfl
  · let u : State := { s with now := t, bel := { s.bel with heatTimer := some (e + 10000) } }
    have hout : heatOut { s with now := t } = (bellNumbers u).foldl coolBell u := by
      simp only [heatOut, htimer, he, if_true]
      rfl
    obtain ⟨run, hlen, hrun, hfold⟩ := foldl_coolBell (bellNumbers u) u (List.Nodup.filter _ List.nodup_range)
    refine ⟨run, hlen, fun b hb => ?_, ?_⟩
    · have hmem : (b ∈ bellNumbers u ∧ b < run.length) ↔ (b < 13 ∧ (bellRec s b).isSome = true) := by
        simp only [bellNumbers, List.mem_filter, List.mem_range, hb, and_true]
        rfl
      rw [hrun b]
      change (match bellRec s b with
        | some c => if b ∈ bellNumbers u ∧ b < run.length then _ else _
        | none => _) = _
      cases hc : bellRec s b <;> simp [hmem, hc] <;> rfl
    · calc exec (.heatPeriodExpiry t) s
          = event t heatOut s := rfl
        _ = .next ((bellNumbers u).foldl coolBell u) := by rw [event_live hlive, hout]
        _ = _ := by rw [hfold]

end Sys2Proof.Machine

/-! SUPPORT. Proofs about resets, loading and the restart (chapter 10). -/

namespace Sys2Proof.Machine

/-! ## Resets -/

/-- Settles O2: each value, read off `State.reset`. -/
theorem resetHasStatedValues : Obligations.ResetHasStatedValues := by
  have hserves : ∀ n, 32 ≤ n → n ≤ 39 → inServiceSet State.reset n = true := by
    intro n h32 h39
    interval_cases n <;> rfl
  refine ⟨rfl, rfl, rfl, rfl, rfl, rfl, rfl, rfl, rfl, rfl, rfl, rfl, rfl, rfl, rfl, rfl, rfl, rfl, rfl, rfl, rfl, rfl,
    rfl, rfl, by decide, rfl, rfl, rfl, rfl, rfl, rfl, rfl, by decide, rfl, rfl, rfl, rfl, rfl, by decide, by decide,
    rfl, rfl, by decide, by decide, rfl, rfl, rfl, rfl, rfl, rfl, rfl, rfl, rfl, rfl, rfl, rfl, rfl, by decide, rfl, rfl,
    rfl, rfl, rfl, rfl, rfl, rfl, hserves, rfl⟩

theorem exec_fullReset (t : Nat) (s : State) : exec (.fullReset t) s = .next (fullResetState (s.at t)) := rfl

theorem exec_resetRelease (t : Nat) (s : State) :
    exec (.resetRelease t) s = .next (if s.inReset then releaseReset (s.at t) else s.at t) := rfl

theorem at_of_le {t : Nat} {s : State} (h : s.now ≤ t) : s.at t = { s with now := t } := by
  simp [State.at, max_eq_right h]

/-- Settles O3. -/
theorem fullResetAndReleaseBeginTheLoad : Obligations.FullResetAndReleaseBeginTheLoad := by
  refine ⟨exec_fullReset, fun t s h => ?_, fun t t' s => ⟨_, _, exec_fullReset t s, exec_resetRelease t' _, rfl, ?_⟩⟩
  · rw [exec_resetRelease, at_of_le h]
    rfl
  · simp [fullResetState, releaseReset, clockMs, State.reset, Sck.reset]

/-! ## Reads of the image (R161) -/

theorem imageRead_eq {t0 : Nat} {d : List Byte} {l : LoadRec} {s : State} (hload : s.iml.load = some l)
    (hstart : l.started = some t0) (hlen : d.length = (loadArea s l.area).len)
    (htime : t0 + 2 * (4 + d.length) ≤ s.now) : imageRead d s =
      if noAnswer d then areaBad l true s else if areaValid l.area d then areaGood l d s else areaBad l false s := by
  have hport : t0 + portTime (loadArea s l.area).len ≤ s.now := by
    rw [← hlen, portTime]
    omega
  simp only [imageRead, hload, hstart, hport, if_true, readBytes_self _ d hlen]

/-- A read that fails is the area's bad read, silent where no byte was answered. -/
theorem imageRead_bad {t0 : Nat} {d : List Byte} {l : LoadRec} {s : State} (hload : s.iml.load = some l)
    (hstart : l.started = some t0) (hlen : d.length = (loadArea s l.area).len)
    (htime : t0 + 2 * (4 + d.length) ≤ s.now) (hbad : areaValid l.area d = false) :
    imageRead d s = areaBad l (noAnswer d) s := by
  rw [imageRead_eq hload hstart hlen htime, hbad]
  cases noAnswer d <;> rfl

theorem imageRead_good {t0 : Nat} {d : List Byte} {l : LoadRec} {s : State} (hload : s.iml.load = some l)
    (hstart : l.started = some t0) (hlen : d.length = (loadArea s l.area).len)
    (htime : t0 + 2 * (4 + d.length) ≤ s.now) (hanswer : noAnswer d = false) (hgood : areaValid l.area d = true) :
    imageRead d s = areaGood l d s := by
  rw [imageRead_eq hload hstart hlen htime, hanswer, hgood]
  rfl

/-- R161, Table 9: a header with its marks, its sum, and four areas within the address space. -/
theorem headerValid_of {d : List Byte} (hmark : le16 d 0 = 0x6C2E) (hver : le16 d 2 = 1)
    (hsum : wordSum d % 65536 = 0) (hareas : ∀ i ∈ [4, 9, 14, 19], le24 d i + le16 d (i + 3) ≤ 16777216) :
    headerValid d = true := by
  simp only [List.mem_cons, List.not_mem_nil, or_false, forall_eq_or_imp, forall_eq] at hareas
  simp [headerValid, parseImgHeader, parseArea, areaFits, areaSumGood, hmark, hver, hsum, hareas]

theorem noAnswer_of_mark {d : List Byte} (hmark : le16 d 0 = 0x6C2E) : noAnswer d = false := by
  refine Bool.eq_false_iff.mpr fun h => ?_
  obtain ⟨hne, hall⟩ := noAnswer_iff.mp h
  obtain ⟨b, rest, rfl⟩ := List.exists_cons_of_ne_nil hne
  have hb : b = 0xFF := hall b List.mem_cons_self
  subst hb
  simp only [le16, byteAt, List.getD_cons_zero] at hmark
  simp at hmark
  omega

/-! ## Stopping at start (R161, R162, R172) -/

/-- With the engine in IDLE a muting STOP fault tells the Figure Unit and the Zone Unit alone. -/
theorem stopMuted_idle {s : State} (h : s.she.engine = .idle) (code : FaultCode) (detail : Nat) :
    stopMuted code detail s = muteZones (muteFigures (stopping code detail s)) := by
  have hstops : engineStops (stopping code detail s) = stopping code detail s := by
    have hidle : (stopping code detail s).she.engine = .idle := h
    simp only [engineStops, talkSlot, hidle, withdrawShow]
  rw [stopMuted_eq, hstops]

/-- What a station stopped at start holds: STOPPED and muted, the fault at the head of the list, the number and bit
rate of the configuration block, and no table taken. -/
structure StoppedAtStart (code : FaultCode) (detail : Nat) (config : List Byte) (s u : State) : Prop where
  station : u.iml.station = .stopped
  muted : u.iml.muted = true
  load : u.iml.load = none
  listen : u.iml.listen = none
  rxOn : u.bus.rxOn = true
  queue : u.bus.queue = []
  pin : faultPin u = true
  head : u.flt.list.head? = some ⟨code, detail, dayNo s, minuteOfDay s⟩
  number : u.iml.number = if config ≠ [] ∧ byteAt config 2 ≤ 1 then some (byteAt config 0) else none
  fast : u.bus.fast = decide (byteAt config 2 = 1)
  sck : u.sck = s.sck
  csq : u.csq = s.csq
  bel : u.bel = s.bel
  figs : u.fig.figs = s.fig.figs
  paths : u.fig.paths = s.fig.paths
  chr : u.chr = s.chr
  gtu : u.gtu = s.gtu

theorem startReceiver_eq (s : State) : ∃ idle,
    startReceiver s = { s with bus := { s.bus with rxOn := true, idleFrom := idle } } := by
  cases hon : s.bus.rxOn with
  | true => exact ⟨s.bus.idleFrom, by
      rw [startReceiver, if_pos hon, ← hon]⟩
  | false => exact ⟨s.now, by simp [startReceiver, hon, State.modBus]⟩

/-- The line of a station stopped at start: its receiver on, its number and bit rate those of the configuration block. -/
theorem startReceiver_startLine (config : List Byte) (s : State) : ∃ idle, startReceiver (startLine config s) = { s with
    iml := { s.iml with
      number := if config ≠ [] ∧ byteAt config 2 ≤ 1 then some (byteAt config 0) else none }
    bus := { s.bus with rxOn := true, idleFrom := idle, fast := decide (byteAt config 2 = 1) } } := by
  have hfast : (startLine config s) = { s with
      iml := { s.iml with
        number := if config ≠ [] ∧ byteAt config 2 ≤ 1 then some (byteAt config 0) else none }
      bus := { s.bus with fast := decide (byteAt config 2 = 1) } } := by
    unfold startLine
    split
    · rfl
    · next hnot =>
      have hrate : byteAt config 2 ≠ 1 := fun h1 => hnot ⟨fun hnil => by simp [hnil, byteAt] at h1, h1.le⟩
      simp [State.modBus, State.modIml, hrate]
  obtain ⟨idle, hrx⟩ := startReceiver_eq (startLine config s)
  exact ⟨idle, by rw [hrx, hfast]⟩

theorem stopAtStart_spec (code : FaultCode) (detail : Nat) (config : List Byte) {s : State}
    (hidle : s.she.engine = .idle) : StoppedAtStart code detail config s (stopAtStart code detail config s) := by
  obtain ⟨idle, hline⟩ := startReceiver_startLine config (s.modIml fun i => { i with load := none })
  have hstop := stopMuted_idle (s := startReceiver (startLine config (s.modIml fun i => { i with load := none })))
    (by rw [hline]; exact hidle) code detail
  have hstation := stopMuted_iml code detail
    (startReceiver (startLine config (s.modIml fun i => { i with load := none })))
  have hqueue := stopMuted_queue code detail
    (startReceiver (startLine config (s.modIml fun i => { i with load := none })))
  have hpin := faultPin_stopMuted code detail
    (startReceiver (startLine config (s.modIml fun i => { i with load := none })))
  change StoppedAtStart code detail config s
    (stopMuted code detail (startReceiver (startLine config (s.modIml fun i => { i with load := none }))))
  rw [hline] at hstop hstation hqueue hpin ⊢
  rw [muteZones_eq, muteFigures_eq] at hstop
  constructor
  case station => rw [hstation]
  case muted => rw [hstation]
  case load => rw [hstation]; rfl
  case listen => rw [hstation]
  case queue => exact hqueue
  case pin => exact hpin
  case number => rw [hstation]
  all_goals
    rw [hstop]
    rfl

/-- Settles O5: a good header kept, a bad read repeated after its timer, and a second bad read of `stopAtStart_spec`. -/
theorem areaReadsLeadOnRepeatOrStop : Obligations.AreaReadsLeadOnRepeatOrStop := by
  refine ⟨fun t t0 d l s hlive hload harea hstart htime hlen hmark hver hsum hareas => ?_, ⟨?_, ?_⟩,
    fun t t0 d l s hlive hidle hload hsecond hstart hlen htime hbad => ?_⟩
  · have harea' : loadArea { s with now := t } l.area = ⟨0, 32⟩ := by rw [harea]; rfl
    have hgood : areaValid l.area d = true := harea ▸ headerValid_of hmark hver hsum hareas
    calc exec (.imageReadDone t d) s
        = event t (imageRead d) s := rfl
      _ = .next (areaGood l d { s with now := t }) := by
        rw [event_live hlive, imageRead_good (s := { s with now := t }) hload hstart (by rw [hlen, harea'])
          (by rw [hlen]; exact htime) (noAnswer_of_mark hmark) hgood]
      _ = _ := by
        simp only [areaGood, harea]
        rfl
  · intro t t0 d l s hlive hload hfirst hstart hlen htime hbad
    calc exec (.imageReadDone t d) s
        = event t (imageRead d) s := rfl
      _ = .next (areaBad l (noAnswer d) { s with now := t }) := by
        rw [event_live hlive, imageRead_bad (s := { s with now := t }) hload hstart hlen htime hbad]
      _ = _ := congrArg Host.Outcome.next (if_pos hfirst)
  · intro t e l s hlive hload hreread he
    calc exec (.rereadTimerExpiry t) s
        = event t rereadExpires s := rfl
      _ = .next (rereadExpires { s with now := t }) := event_live hlive _
      _ = _ := by
        simp only [rereadExpires, hload, hreread, expired, he, decide_true, if_true]
        rfl
  · have hexec : exec (.imageReadDone t d) s = .next (stopAtStart
        (if noAnswer d then .imageUnreadable else .configBad) l.area l.config { s with now := t }) := by
      calc exec (.imageReadDone t d) s
          = event t (imageRead d) s := rfl
        _ = .next (areaBad l (noAnswer d) { s with now := t }) := by
          rw [event_live hlive, imageRead_bad (s := { s with now := t }) hload hstart hlen htime hbad]
        _ = _ := congrArg Host.Outcome.next (if_neg (by omega))
    have hstop := stopAtStart_spec (s := { s with now := t })
      (if noAnswer d then .imageUnreadable else .configBad) l.area l.config hidle
    refine ⟨_, hexec, hstop.station, hstop.muted, hstop.load, hstop.rxOn, hstop.queue, hstop.pin, ?_⟩
    rw [hstop.head]
    simp only [noAnswer_iff]

/-! ## Acceptance and the checks of the image (R162) -/

theorem firstFailure_none {l : List (Bool × Nat)} (h : ∀ x ∈ l, x.1 = true) : firstFailure l = none := by
  rw [firstFailure, List.find?_eq_none.mpr fun x hx => by simp [h x hx]]
  rfl

/-- The first failure of two lists of checks made one after the other. -/
theorem firstFailure_append (a b : List (Bool × Nat)) :
    firstFailure (a ++ b) = (firstFailure a).or (firstFailure b) := by
  simp only [firstFailure, List.find?_append]
  cases a.find? fun x => !x.1 <;> rfl

theorem firstFailure_at {p q : List (Bool × Nat)} {area : Nat} (h : ∀ x ∈ p, x.1 = true) :
    firstFailure (p ++ (false, area) :: q) = some area := by
  rw [firstFailure_append, firstFailure_none h]
  rfl

/-- R162, with no bad calendar entry: the first failure of all the checks decides. -/
theorem finishLoad_eq {m : Image} (hentries : badEntries m = []) (s : State) :
    finishLoad m s = match firstFailure (earlyChecks m ++ lateChecks m) with
      | some d => stopAtStart .configBad d m.config s
      | none => accept m s := by
  rw [firstFailure_append]
  simp only [finishLoad, hentries, List.foldl_nil]
  cases firstFailure (earlyChecks m) with
  | some d => rfl
  | none => cases firstFailure (lateChecks m) <;> rfl

/-- What an accepted image leaves of a running part: its tables, its timers, and a clock within the century. -/
structure Accepted (m : Image) (s u : State) : Prop where
  now : u.now = s.now
  station : u.iml.station = .listening
  number : u.iml.number = some (m.field 0)
  load : u.iml.load = none
  listen : u.iml.listen = some (s.now + 2000000)
  timeTimer : u.sck.timeTimer = some (s.now + 16000000)
  rxOn : u.bus.rxOn = true
  queue : u.bus.queue = s.bus.queue
  directory : u.csq.directory = m.dir
  clock : clockMs u = if centuryMs ≤ clockMs s then clockMs s - centuryMs else clockMs s
  entry : u.sck.entry = matchDay m.entries (clockMs u / 86400000)
  grade : u.sck.grade = if centuryMs ≤ clockMs s then 15 else s.sck.grade
  lastSlot : u.sck.lastSlot = s.sck.lastSlot
  faults : u.flt.list = s.flt.list
  she : u.she = s.she
  zon : u.zon = s.zon



/-! ### The end of the century (R1) -/

/-- R1: the clock of a century that begins: its reading, grade 15, no age timer and no slew. -/
def Sck.newCentury (ms now : Nat) (k : Sck) : Sck :=
  { k with clkMs := ms, clkAt := now, grade := 15, ageTimer := none, slew := 0, slewTimer := none }

theorem clockMs_newCentury {s : State} (hrun : s.inReset = false) (ms : Nat) :
    clockMs (s.modSck (Sck.newCentury ms s.now)) = ms := by
  simp [clockMs, hrun, Sck.newCentury]

theorem wrapCentury_past {s : State} (h : centuryMs ≤ clockMs s) :
    wrapCentury s = s.modSck (Sck.newCentury (clockMs s - centuryMs) s.now) :=
  if_neg (not_lt.mpr h)

theorem wrapCentury_within {s : State} (h : ¬centuryMs ≤ clockMs s) : wrapCentury s = s := if_pos (not_le.mp h)

theorem newCentury_of_wrap {s : State} {ms : Nat} (hrun : s.inReset = false)
    (h : wrapCentury s = s.modSck (Sck.newCentury ms s.now)) : ∃ k, wrapCentury s = { s with sck := k }
    ∧ clockMs { s with sck := k } = ms ∧ k.grade = 15 ∧ k.lastSlot = s.sck.lastSlot :=
  ⟨_, h, clockMs_newCentury hrun ms, rfl, rfl⟩

/-- R1: what passing the end of the century comes to: the Station Clock alone changes. -/
theorem wrapCentury_spec {s : State} (hrun : s.inReset = false) : ∃ k, wrapCentury s = { s with sck := k }
    ∧ clockMs { s with sck := k } = (if centuryMs ≤ clockMs s then clockMs s - centuryMs else clockMs s)
    ∧ k.grade = (if centuryMs ≤ clockMs s then 15 else s.sck.grade) ∧ k.lastSlot = s.sck.lastSlot := by
  by_cases h : centuryMs ≤ clockMs s
  · rw [if_pos h, if_pos h]
    exact newCentury_of_wrap hrun (wrapCentury_past h)
  · rw [if_neg h, if_neg h]
    exact ⟨_, wrapCentury_within h, rfl, rfl, rfl⟩

/-! ### The tables taken (R163) -/

/-- R163: the Station Clock takes its tables, the calendar matched by the clock it goes on with. -/
theorem acceptClock_eq (m : Image) {k : Sck} {s : State} (hwrap : wrapCentury s = { s with sck := k }) :
    ∃ lv ch done, acceptClock m s = { s with
      chr := ch
      sck := { k with
        calendar := m.entries, slots := m.slots.filterMap id, quietCeiling := m.field 7, minuteDone := done
        timeTimer := some (s.now + 16000000), level := lv
        entry := matchDay m.entries (clockMs { s with sck := k } / 86400000) } } := by
  rw [acceptClock, recomputeLevel_eq, hwrap]
  exact ⟨_, _, _, rfl⟩

theorem acceptSettings_eq (m : Image) (s : State) : ∃ gtu flt, acceptSettings m s = { s with
    gtu := gtu, csq := { s.csq with directory := m.dir }, flt := flt
    bus := { s.bus with fast := m.field 2 == 1, rotating := m.field 3 == 1 } } ∧ flt.list = s.flt.list := by
  simp only [acceptSettings, State.modFlt, State.modBus, State.modCsq, State.modGtu]
  exact ⟨_, _, rfl, rfl⟩

theorem acceptPlay_eq (m : Image) (s : State) : ∃ bel fig,
    acceptPlay m s = { s with bel := bel, fig := fig } := by
  simp only [acceptPlay, State.modBel, State.modFig]
  exact ⟨_, _, rfl⟩

theorem acceptChannels_eq (m : Image) (s : State) : ∃ chr, acceptChannels m s = { s with chr := chr } := by
  simp only [acceptChannels, State.modChr]
  exact ⟨_, rfl⟩

/-- R163: the other units take their tables and settings; the queue and the fault list stay. -/
theorem acceptTables_eq (m : Image) (s : State) : ∃ gtu bel fig chr flt,
    acceptChannels m (acceptPlay m (acceptSettings m s)) = { s with
      gtu := gtu, csq := { s.csq with directory := m.dir }, bel := bel, fig := fig, chr := chr, flt := flt
      bus := { s.bus with fast := m.field 2 == 1, rotating := m.field 3 == 1 } } ∧ flt.list = s.flt.list := by
  obtain ⟨gtu, flt, hset, hlist⟩ := acceptSettings_eq m s
  rw [hset]
  obtain ⟨bel, fig, hplay⟩ := acceptPlay_eq m { s with
    gtu := gtu, csq := { s.csq with directory := m.dir }, flt := flt
    bus := { s.bus with fast := m.field 2 == 1, rotating := m.field 3 == 1 } }
  rw [hplay]
  obtain ⟨chr, hchr⟩ := acceptChannels_eq m { s with
    gtu := gtu, csq := { s.csq with directory := m.dir }, bel := bel, fig := fig, flt := flt
    bus := { s.bus with fast := m.field 2 == 1, rotating := m.field 3 == 1 } }
  exact ⟨gtu, bel, fig, chr, flt, hchr, hlist⟩

theorem accept_spec (m : Image) {s : State} (hrun : s.inReset = false) : Accepted m s (accept m s) := by
  obtain ⟨idle, hrx⟩ := startReceiver_eq s
  obtain ⟨gtu, bel, fig, chr, flt, htab, hflt⟩ := acceptTables_eq m (startReceiver s)
  rw [accept, htab]
  clear htab
  rw [hrx] at hflt ⊢
  obtain ⟨k, hwrap, hclk, hgrade, hlast⟩ := wrapCentury_spec (s := { s with
    gtu := gtu, csq := { s.csq with directory := m.dir }, bel := bel, fig := fig, chr := chr, flt := flt
    bus := { s.bus with rxOn := true, idleFrom := idle, fast := m.field 2 == 1, rotating := m.field 3 == 1 } }) hrun
  obtain ⟨lv, ch, done, hacc⟩ := acceptClock_eq m hwrap
  rw [hacc]
  exact ⟨rfl, rfl, rfl, rfl, rfl, rfl, rfl, rfl, rfl, hclk, rfl, hgrade, hlast, hflt, rfl, rfl⟩

/-- The read of the last area, good: the checks of the tables decide. -/
theorem exec_lastAreaRead {t t0 : Nat} {d : List Byte} {l : LoadRec} {s : State} (hlive : Live t s)
    (hload : s.iml.load = some l) (harea : l.area = 5) (hstart : l.started = some t0)
    (hsize : (loadArea s 5).len = 258) (htime : t0 + 524 ≤ t) (hlen : d.length = 258)
    (hsum : wordSum d % 65536 = 0) (hanswer : ∃ b ∈ d, b ≠ 0xFF) :
    exec (.imageReadDone t d) s = .next (finishLoad ⟨l.config, l.path, l.calendar, d⟩ { s with now := t }) := by
  have hvalid : areaValid l.area d = true := by
    rw [harea]
    simp [areaValid, areaSumGood, hlen, hsum]
  calc exec (.imageReadDone t d) s
      = event t (imageRead d) s := rfl
    _ = .next (areaGood l d { s with now := t }) := by
      rw [event_live hlive, imageRead_good (s := { s with now := t }) hload hstart
        (by rw [harea, hlen]; exact hsize.symm) (by rw [hlen]; exact htime) (answers_of_mem hanswer) hvalid]
    _ = _ := by simp only [areaGood, harea]

/-- Settles O6, by the first failure of the checks: none, and the image is accepted; else the station stops. -/
theorem acceptedImageEntersListening : Obligations.AcceptedImageEntersListening := by
  intro t t0 d l m s hlive hload harea hstart hsize htime hlen hsum hanswer hm hentries past clock
  have hexec := exec_lastAreaRead hlive hload harea hstart hsize htime hlen hsum hanswer
  rw [← hm, finishLoad_eq hentries] at hexec
  have hconfig : m.config = l.config := by rw [hm]
  refine ⟨fun hgood => ?_, fun p q area hchecks hgood hidle => ?_⟩
  · rw [firstFailure_none hgood] at hexec
    have hacc := accept_spec m (s := { s with now := t }) hlive.1
    have hnumber := hacc.number
    have hentry := hacc.entry
    rw [Image.field, hconfig] at hnumber
    rw [hacc.clock] at hentry
    exact ⟨_, hexec, hacc.now, hacc.station, hnumber, hacc.load, hacc.listen, hacc.timeTimer, hacc.rxOn, hacc.queue,
      hacc.directory, hacc.clock, hentry, hacc.grade, hacc.lastSlot, hacc.faults, hacc.she, hacc.zon⟩
  · rw [hchecks, firstFailure_at hgood, hconfig] at hexec
    have hstop := stopAtStart_spec (s := { s with now := t }) .configBad area l.config hidle
    exact ⟨_, hexec, hstop.station, hstop.muted, hstop.load, hstop.listen, hstop.rxOn, hstop.queue, hstop.pin,
      hstop.head, hstop.number, hstop.fast, hstop.sck, hstop.csq, hstop.bel, hstop.figs, hstop.paths, hstop.chr,
      hstop.gtu⟩

/-! ## Entry to IN_SERVICE (R164) -/

/-- R113: a figure that begins a homing run. -/
def homingStart (now : Nat) (c : FigRec) (q : FigRun) : FigRun :=
  { q with
    state := .homing, duty := 0, jam := none, hold := none, jamWait := .none
    coast := if 0 < q.duty then some (now + 200000) else q.coast
    run := some ⟨.homing, [(c.park, c.creep)], 1, 100, c.homingZones.map fun z => (z, 0), false, .claim, .seek, .off,
      decide (q.state = .jammed)⟩ }

/-- R113: its homing zones asked for or, having none, granted. -/
def askHoming (f : Nat) (c : FigRec) (z : Zon) : Zon :=
  if c.homingZones = [] then { z with granted := z.granted ++ [f] }
  else { z with trialDue := true, reqs := z.reqs ++ [⟨f, c.homingZones, .waiting⟩] }

theorem beginHoming_eq {f : Nat} {c : FigRec} {s : State} (hc : figRec s f = some c)
    (hreqs : ∀ r ∈ s.zon.reqs, r.figure ≠ f) : beginHoming f s = { s with
      fig := { s.fig with run := s.fig.run.set f (homingStart s.now c (figRun s f)) }
      zon := askHoming f c s.zon } := by
  have hrun : modFigRun f (fun r =>
      { r with
        state := .homing, hold := none, jamWait := .none
        run := some ⟨.homing, [(c.park, c.creep)], 1, 100, homingSet c, false, .claim, .seek, .off,
          decide (r.state = .jammed)⟩ }) (setDuty f 0 s)
      = { s with fig := { s.fig with run := s.fig.run.set f (homingStart s.now c (figRun s f)) } } := by
    rw [setDuty, modFigRun_mod, modFigRun_put]
    simp only [FigRun.withDuty, homingStart, homingSet, and_true, if_true, Config.coastUs]
  simp only [beginHoming, hc]
  rw [hrun, requestRun, askHoming]
  split
  · rfl
  · rw [enterRequest, withdrawRequest_idle]
    · rfl
    · exact hreqs

/-- The figures that begin homing runs, one after the other. -/
def homingRuns (now : Nat) (figs : List (Nat × FigRec)) (run : List FigRun) : List FigRun :=
  figs.foldl (fun run x => run.set x.1 (homingStart now x.2 (run.getD x.1 FigRun.reset))) run

/-- What they ask for, one after the other. -/
def homingAsks (figs : List (Nat × FigRec)) (z : Zon) : Zon := figs.foldl (fun z x => askHoming x.1 x.2 z) z

theorem mem_reqs_askHoming {f : Nat} {c : FigRec} {z : Zon} {r : ZoneReq} (h : r ∈ (askHoming f c z).reqs) :
    r ∈ z.reqs ∨ r.figure = f := by
  unfold askHoming at h
  split at h
  · exact .inl h
  · rcases List.mem_append.mp h with hold | hnew
    · exact .inl hold
    · exact .inr (by rw [List.mem_singleton.mp hnew])

theorem foldl_beginHoming {figs : List (Nat × FigRec)} {s : State} (hrec : ∀ x ∈ figs, figRec s x.1 = some x.2)
    (hreqs : ∀ x ∈ figs, ∀ r ∈ s.zon.reqs, r.figure ≠ x.1) (hnodup : (figs.map (·.1)).Nodup) :
    (figs.map (·.1)).foldl (fun s f => beginHoming f s) s = { s with
      fig := { s.fig with run := homingRuns s.now figs s.fig.run }, zon := homingAsks figs s.zon } := by
  induction figs generalizing s with
  | nil => rfl
  | cons x figs ih =>
    obtain ⟨hnot, hrest⟩ := List.nodup_cons.mp hnodup
    have hfirst := beginHoming_eq (hrec x List.mem_cons_self) (hreqs x List.mem_cons_self)
    rw [List.map_cons, List.foldl_cons, hfirst, ih _ _ hrest]
    · rfl
    · exact fun y hy => hrec y (List.mem_cons_of_mem _ hy)
    · intro y hy r hr
      rcases mem_reqs_askHoming hr with hold | hnew
      · exact hreqs y (List.mem_cons_of_mem _ hy) r hold
      · intro heq
        exact hnot (List.mem_map.mpr ⟨y, hy, heq ▸ hnew⟩)

/-- Each figure of the runs begins its own, once. -/
theorem homingRuns_getElem? {now : Nat} {figs : List (Nat × FigRec)} {run : List FigRun}
    (hnodup : (figs.map (·.1)).Nodup) (i : Nat) : (homingRuns now figs run)[i]? = run[i]?.map fun q =>
      match figs.find? (fun x => x.1 == i) with
      | none => q
      | some x => homingStart now x.2 q := by
  induction figs generalizing run with
  | nil => simp [homingRuns]
  | cons x figs ih =>
    obtain ⟨hnot, hrest⟩ := List.nodup_cons.mp hnodup
    have hcons : homingRuns now (x :: figs) run
        = homingRuns now figs (run.set x.1 (homingStart now x.2 (run.getD x.1 FigRun.reset))) := rfl
    rw [hcons, ih hrest]
    by_cases hi : x.1 = i
    · subst hi
      have hnone : figs.find? (fun y => y.1 == x.1) = none :=
        List.find?_eq_none.mpr fun y hy heq => hnot (List.mem_map.mpr ⟨y, hy, by simpa using heq⟩)
      rw [hnone, List.find?_cons_of_pos (by simp), List.getElem?_set_self']
      cases hx : run[x.1]? <;> simp [List.getD_eq_getElem?_getD, hx]
    · rw [List.getElem?_set_ne hi, List.find?_cons_of_neg (by simpa using hi)]

theorem homingAsks_eq (figs : List (Nat × FigRec)) (z : Zon) : homingAsks figs z = { z with
    trialDue := z.trialDue || figs.any fun x => decide (x.2.homingZones ≠ [])
    granted := z.granted ++ (figs.filter fun x => decide (x.2.homingZones = [])).map (·.1)
    reqs := z.reqs ++ (figs.filter fun x => decide (x.2.homingZones ≠ [])).map fun x =>
      ⟨x.1, x.2.homingZones, .waiting⟩ } := by
  induction figs generalizing z with
  | nil => simp [homingAsks]
  | cons x figs ih =>
    have hcons : homingAsks (x :: figs) z = homingAsks figs (askHoming x.1 x.2 z) := rfl
    rw [hcons, ih]
    by_cases hx : x.2.homingZones = [] <;> simp [askHoming, hx]

/-- The configured figures with their records, ascending. -/
def figTable (s : State) : List (Nat × FigRec) :=
  (List.range 7).filterMap fun f => (figRec s f).map fun c => (f, c)

theorem mem_figTable {s : State} {x : Nat × FigRec} : x ∈ figTable s ↔ x.1 < 7 ∧ figRec s x.1 = some x.2 := by
  obtain ⟨f, c⟩ := x
  simp only [figTable, List.mem_filterMap, List.mem_range, Option.map_eq_some_iff, Prod.mk.injEq]
  constructor
  · rintro ⟨g, hg, d, hd, rfl, rfl⟩
    exact ⟨hg, hd⟩
  · rintro ⟨hf, hc⟩
    exact ⟨f, hf, c, hc, rfl, rfl⟩

theorem figTable_numbers (s : State) : (figTable s).map (·.1) = figNumbers s := by
  rw [figTable, List.map_filterMap, figNumbers, ← List.filterMap_eq_filter]
  refine List.filterMap_congr fun f _ => ?_
  cases hrec : figRec s f <;> simp [hrec, Option.guard]

theorem figNumbers_nodup (s : State) : (figNumbers s).Nodup := List.nodup_range.filter _

/-- The record of a figure, looked up in the table. -/
theorem figTable_find (s : State) (f : Nat) :
    ((figTable s).find? fun x => x.1 == f).map (·.2) = if f < 7 then figRec s f else none := by
  cases hfind : (figTable s).find? fun x => x.1 == f with
  | some x =>
    have hf : x.1 = f := by simpa using List.find?_some hfind
    obtain ⟨hlt, hrec⟩ := mem_figTable.mp (List.mem_of_find?_eq_some hfind)
    rw [← hf, if_pos hlt, hrec]
    rfl
  | none =>
    have hnone := List.find?_eq_none.mp hfind
    split
    · next hlt =>
      cases hrec : figRec s f with
      | none => rfl
      | some c => exact absurd (beq_self_eq_true f) (hnone (f, c) (mem_figTable.mpr ⟨hlt, hrec⟩))
    · rfl

theorem exec_listenTimerExpiry {t e : Nat} {s : State} (hlive : Live t s) (hlistening : s.iml.station = .listening)
    (htimer : s.iml.listen = some e) (he : e ≤ t) (hroom : s.bus.queue.length < 8) :
    exec (.listenTimerExpiry t) s = .next (settleZones trialFuel ((figNumbers s).foldl (fun s f => beginHoming f s)
      { s with
        now := t
        iml := { s.iml with station := .inService, listen := none, helloPending := true, helloLost := none }
        bus := { s.bus with
          queue := s.bus.queue ++ [⟨s.bus.nextId, .hello s.iml.role⟩], nextId := s.bus.nextId + 1 } })) := by
  have hover : listenOver { s with now := t } = true := by
    simp [listenOver, hlistening, htimer, expired, he]
  calc exec (.listenTimerExpiry t) s
      = event t (fun s => settleZones trialFuel (if listenOver s then enterService s else s)) s := rfl
    _ = .next (settleZones trialFuel (enterService { s with now := t })) := by
      rw [event_live hlive, if_pos hover]
    _ = _ := by
      rw [enterService, queueHello, queueFrame_room]
      · rfl
      · exact hroom

/-- Settles O7: without a figure nothing is owed; else the homing runs of the table. -/
theorem listenTimerEntersServiceWithHello : Obligations.ListenTimerEntersServiceWithHello := by
  intro t e s hlive hrest hlistening htimer he hroom u
  have hexec := exec_listenTimerExpiry hlive hlistening htimer he hroom
  refine ⟨fun hnone => ?_, ?_⟩
  · rw [figNumbers_none hnone, List.foldl_nil, settleZones_rest (s := u) hrest] at hexec
    exact hexec
  · intro hreqs figs
    rw [← figTable_numbers, foldl_beginHoming] at hexec
    · rw [hexec, homingAsks_eq]
      have hruns : homingRuns t (figTable s) s.fig.run = s.fig.run.mapIdx fun f q =>
          match if f < 7 then figRec s f else none with
          | none => q
          | some c => homingStart t c q := by
        refine List.ext_getElem? fun i => ?_
        rw [homingRuns_getElem? (figTable_numbers s ▸ figNumbers_nodup s), List.getElem?_mapIdx, ← figTable_find]
        cases (figTable s).find? fun x => x.1 == i <;> rfl
      obtain ⟨htrial, hgranted⟩ := hrest
      simp only [hruns, htrial, hgranted, Bool.false_or, List.nil_append]
      rfl
    · exact fun x hx => (mem_figTable.mp hx).2
    · intro x hx r hr heq
      have hrec := hreqs r hr
      rw [heq, (mem_figTable.mp hx).2] at hrec
      exact Option.some_ne_none _ hrec
    · exact figTable_numbers s ▸ figNumbers_nodup s

/-! ## The service restart (R165) -/

/-- Settles O8: the restart is due, and begins. -/
theorem restartMomentReloadsAndKeeps : Obligations.RestartMomentReloadsAndKeeps := by
  intro t s hlive hdue
  have hdue' : restartDue { s with now := t } = true := by
    rcases hdue with h | ⟨n, h, hgone⟩
    · simp [restartDue, h]
    · simpa [restartDue, h] using hgone
  have hexec : exec (.restartMoment t) s = .next (restartBegins { s with now := t }) := by
    calc exec (.restartMoment t) s
        = event t (fun s => if restartDue s then restartBegins s else s) s := rfl
      _ = _ := by rw [event_live hlive, if_pos hdue']
  refine ⟨_, hexec, rfl, rfl, rfl, rfl, rfl, rfl, rfl, rfl, rfl, rfl, rfl, rfl, rfl, rfl, rfl, rfl, rfl, rfl, rfl, rfl,
    rfl, fun r hr => ?_, rfl, rfl, rfl, rfl, rfl, rfl, rfl⟩
  obtain ⟨q, -, rfl⟩ := List.mem_map.mp hr
  rfl

end Sys2Proof.Machine

/-! SUPPORT. Proofs about the station clock (chapter 1): minute boundaries, slew, TIME and SET_TIME. -/

namespace Sys2Proof.Machine

/-! ## Frames heard -/

/-- A good frame heard, of a command that tries no zones, is its owner's. -/
theorem event_heard {t : Nat} {src : Byte} {s : State} (hh : Hears t src s) (b : Bool) (owner : State → State) :
    event t (hear src b owner) s = .next (owner (heardAt t src s)) := by
  rw [event_live hh.1, hear_of_hears hh]

/-- A good frame heard, of a command that may try zones, is its owner's, and the zones are settled after it. -/
theorem zoneEvent_heard {t : Nat} {src : Byte} {s : State} (hh : Hears t src s) (b : Bool) (owner : State → State) :
    zoneEvent t (hear src b owner) s = .next (settleZones trialFuel (owner (heardAt t src s))) := by
  rw [zoneEvent, event_live hh.1, hear_of_hears hh]

/-! ## Slot moments (R9, R20) -/

theorem mayCall_iff {s : State} {slot : Nat} : mayCall s slot = true ↔
    s.iml.station = .inService ∧ s.sck.grade ≤ 14 ∧ (s.sck.level ≠ .closed ∨ slot = 2047) := by
  simp [mayCall, and_assoc]

/-- R20: in IDLE a slot moment starts the call delay of a station that may call. -/
theorem slotMoment_idle {slot : Nat} {kind : Option SlotKind} {day : Nat} {requested : Option Nat} {s : State}
    (hidle : s.she.engine = .idle) : slotMoment slot kind day requested s = { s with
      she := if s.iml.station = .inService ∧ s.sck.grade ≤ 14 ∧ (s.sck.level ≠ .closed ∨ slot = 2047) then
          { s.she with
            engine := .callWait
            pend := some ⟨slot, kind, day, requested, some (s.now + 10000 * ownNo s)⟩ }
        else s.she } := by
  simp only [slotMoment, hidle, mayCall_iff]
  split
  · simp only [State.modShe, Nat.mul_comm]
  · rfl

/-- R20: in any other state it is skipped. -/
theorem slotMoment_busy {slot : Nat} {kind : Option SlotKind} {day : Nat} {requested : Option Nat} {s : State}
    (hbusy : s.she.engine ≠ .idle) : slotMoment slot kind day requested s =
      raiseFault .slotSkipped (if inShow s then (s.she.showRec.map (·.prog)).getD 0 else 255) s := by
  rw [slotMoment]
  cases hengine : s.she.engine with
  | idle => exact absurd hengine hbusy
  | callWait | calling | answered => simp [inShow, hengine]
  | arming | gateWait | running | settling => simp [inShow, hengine, progNo]

theorem raiseSlot_dropped {id day : Nat} {s : State}
    (h : listed s.sck.slots id = false ∨ s.sck.lastSlot = some (id, day)) : raiseSlot id day s = s := by
  rw [raiseSlot, if_neg]
  rintro ⟨hlisted, hnew⟩
  rcases h with h | h
  · exact absurd hlisted (by simp [h])
  · exact hnew h

theorem raiseSlot_raised {id day : Nat} {s : State} (hlisted : listed s.sck.slots id = true)
    (hnew : s.sck.lastSlot ≠ some (id, day)) :
    raiseSlot id day s = slotMoment id (some (slotKind s.sck.slots id)) day none s :=
  if_pos ⟨hlisted, hnew⟩

/-! ## Minute boundaries (R1, R4 to R6, R9) -/

theorem exec_minuteBoundary {t : Nat} {s : State} (hlive : Live t s) :
    exec (.minuteBoundary t) s = .next (crossMinute { s with now := t }) :=
  event_live hlive _

/-- A crossing sets the minute worked, the override, the entry and the level, and raises a slot moment: it leaves the
clock's reading, its grade, its timers and its slew. -/
theorem crossed_frame (id day a n : Nat) (s : State) : ∃ q e lv ch h f b,
    raiseSlot id day (recomputeLevel (matchCalendar (endQuiet a n (s.modSck fun k => { k with minuteDone := n }))))
      = { s with
        sck := { s.sck with minuteDone := n, quiet := q, entry := e, level := lv }
        chr := ch, she := h, flt := f, bus := b } := by
  obtain ⟨q, e, lv, ch, hworked⟩ : ∃ q e lv ch,
      recomputeLevel (matchCalendar (endQuiet a n (s.modSck fun k => { k with minuteDone := n }))) = { s with
        sck := { s.sck with minuteDone := n, quiet := q, entry := e, level := lv }, chr := ch } := by
    rw [recomputeLevel_eq]
    exact ⟨_, _, _, _, rfl⟩
  obtain ⟨h, f, b, hraise⟩ := raiseSlot_frame id day { s with
    sck := { s.sck with minuteDone := n, quiet := q, entry := e, level := lv }, chr := ch }
  exact ⟨q, e, lv, ch, h, f, b, by rw [hworked, hraise]⟩

/-- A boundary at the century's end begins the new century (R1). -/
theorem crossMinute_wraps {s : State} (hdone : s.sck.minuteDone < 36525 * 1440)
    (hpast : 36525 * 86400000 ≤ clockMs s) : ∃ id day a n, crossMinute s =
      raiseSlot id day (recomputeLevel (matchCalendar (endQuiet a n
        ((s.modSck (Sck.newCentury (clockMs s - centuryMs) s.now)).modSck fun k => { k with minuteDone := n })))) := by
  have hcross : ¬minuteNo s ≤ s.sck.minuteDone := by
    simp only [minuteNo, Config.minuteMs]
    omega
  rw [crossMinute, if_neg hcross, wrapCentury_past hpast]
  exact ⟨_, _, _, _, rfl⟩

/-- Settles O9. -/
theorem minuteBoundaryWorksTheLevelAndWraps : Obligations.MinuteBoundaryWorksTheLevelAndWraps := by
  refine ⟨fun t n s hlive hn hnew hrange hdropped => ?_, fun t s hlive hdone hpast => ?_⟩
  · rw [exec_minuteBoundary hlive, crossMinute_eq t n s hn hnew hrange, raiseSlot_dropped (by exact hdropped)]
  · obtain ⟨id, day, a, n, hcross⟩ := crossMinute_wraps (s := { s with now := t }) hdone hpast
    obtain ⟨q, e, lv, ch, h, f, b, hcrossed⟩ := crossed_frame id day a n
      (({ s with now := t } : State).modSck (Sck.newCentury (clockMs { s with now := t } - centuryMs) t))
    rw [exec_minuteBoundary hlive, hcross, hcrossed]
    exact ⟨_, rfl, clockMs_newCentury (s := { s with now := t }) hlive.1 _, rfl, rfl, rfl, rfl⟩

/-- Settles O10. -/
theorem slotMomentStartsTheDelayOrIsSkipped : Obligations.SlotMomentStartsTheDelayOrIsSkipped := by
  refine ⟨?_, fun t n s hlive hn hnew hrange hlisted hlast hbusy => ?_⟩
  · intro t n s hlive hn hnew hrange hlisted hlast hidle k
    have hslot : n % 1440 ≠ 2047 := by omega
    rw [exec_minuteBoundary hlive, crossMinute_eq t n s hn hnew hrange,
      raiseSlot_raised (by exact hlisted) (by exact hlast), slotMoment_idle (by exact hidle)]
    simp only [hslot, or_false]
    rfl
  · rw [exec_minuteBoundary hlive, crossMinute_eq t n s hn hnew hrange,
      raiseSlot_raised (by exact hlisted) (by exact hlast), slotMoment_busy (by exact hbusy)]
    rfl

/-! ## Slew and age (R2, R12) -/

theorem slewRest_eq (slew : Int) : slewRest slew = slew - slew.sign := by
  unfold slewRest
  rcases lt_trichotomy slew 0 with h | h | h
  · rw [if_neg (by omega), if_pos h, Int.sign_eq_neg_one_of_neg h]
    omega
  · subst h
    rfl
  · rw [if_pos h, Int.sign_eq_one_of_pos h]

/-- Settles O11: the reading after the period lies in the minute already worked. -/
theorem slewAndAgeTimersRun : Obligations.SlewAndAgeTimersRun := by
  refine ⟨fun t s hlive htimer hminute => ?_, fun t e s hlive htimer he => ?_⟩
  · have hstays : crossMinute (slewPeriod t { s with now := t }) = slewPeriod t { s with now := t } := by
      have hadvance : slewAdvance s.sck.slew ≤ 65 := by
        unfold slewAdvance
        split_ifs <;> omega
      have hclk : clockMs (slewPeriod t { s with now := t }) = s.sck.clkMs + slewAdvance s.sck.slew := by
        simp [clockMs, slewPeriod, hlive.1]
      refine if_pos ?_
      rw [minuteNo, hclk]
      exact (Nat.div_le_div_right (Nat.add_le_add_left hadvance _)).trans hminute
    calc exec (.slewPeriodExpiry t) s
        = event t slewExpires s := rfl
      _ = .next (crossMinute (slewPeriod t { s with now := t })) := by
        rw [event_live hlive]
        simp only [slewExpires, htimer, le_refl, if_true]
      _ = _ := by
        rw [hstays]
        simp only [slewPeriod, slewRest_eq]
        rfl
  · calc exec (.ageTimerExpiry t) s
        = event t ageTimerOut s := rfl
      _ = .next (ageExpires e { s with now := t }) := by
        rw [event_live hlive]
        simp only [ageTimerOut, htimer, he, if_true]
      _ = _ := by
        have hgrade : min 14 (s.sck.grade + 1) = if s.sck.grade ≤ 13 then s.sck.grade + 1 else 14 := by
          split <;> omega
        simp only [ageExpires, State.modSck, hgrade]

/-! ## The TIME period (R11) -/

theorem any_isTime_iff {q : List TxFrame} :
    (q.any fun f => isTime f.content) = true ↔ ∃ f ∈ q, ∃ v, f.content = .time v := by
  simp only [List.any_eq_true, isTime_iff]

theorem exec_timePeriodExpiry {t e : Nat} {s : State} (hlive : Live t s) (htimer : s.sck.timeTimer = some e)
    (he : e ≤ t) : exec (.timePeriodExpiry t) s =
      .next (if maySend s then queueTime { s with now := t, sck := { s.sck with timeTimer := some (e + 16000000) } }
        else { s with now := t, sck := { s.sck with timeTimer := some (e + 16000000) } }) := by
  calc exec (.timePeriodExpiry t) s
      = event t timeTimerOut s := rfl
    _ = .next (timePeriodExpires e { s with now := t }) := by
      rw [event_live hlive]
      simp only [timeTimerOut, htimer, he, if_true]
    _ = _ := rfl

/-! ## A grade taken, a slew and a step (R12 to R14) -/

/-- R5: a grade but 15 does not decide the level. -/
theorem levelAt_grade {g g' : Nat} (h : g ≠ 15) (h' : g' ≠ 15) (entry : Option CalEntry) (overridden : Bool)
    (m : Nat) : levelAt entry g overridden m = levelAt entry g' overridden m := by
  simp only [levelAt, h, h', if_false]

/-- The clock's reading depends on the moment, the reset pin and the clock's own reading and slew alone. -/
theorem clockMs_congr {u v : State} (hnow : u.now = v.now) (hreset : u.inReset = v.inReset)
    (hms : u.sck.clkMs = v.sck.clkMs) (hat : u.sck.clkAt = v.sck.clkAt) (hslew : u.sck.slew = v.sck.slew) :
    clockMs u = clockMs v := by
  simp only [clockMs, hnow, hreset, hms, hat, hslew]

theorem clockMs_of_sck {u v : State} (hnow : u.now = v.now) (hreset : u.inReset = v.inReset) (hsck : u.sck = v.sck) :
    clockMs u = clockMs v :=
  clockMs_congr hnow hreset (by rw [hsck]) (by rw [hsck]) (by rw [hsck])

/-- A grade set, and the level worked again by it. -/
theorem gradeTaken_eq (g : Nat) (s : State) : recomputeLevel (setGrade g s) =
    let lv := levelAt (entryInForce s) g s.sck.quiet.isSome (clockMs s % 86400000 / 60000)
    { s with
      sck := { s.sck with grade := g, ageTimer := some (s.now + 14400000000), level := lv }
      chr := { s.chr with lamps := lampsAt s.now lv s } } := by
  rw [recomputeLevel_eq, levelOf_eq]
  rfl

theorem clockMs_gradeTaken (g : Nat) (s : State) : clockMs (recomputeLevel (setGrade g s)) = clockMs s := by
  rw [gradeTaken_eq]
  exact clockMs_congr rfl rfl rfl rfl rfl

theorem adopts_iff {s : State} {src : Byte} {x : TimeIn} : adopts s src.toNat x = true ↔
    (x.grade ≠ 0 ∨ Serves src s) ∧ x.grade < 14 ∧ x.grade + 1 ≤ s.sck.grade
      ∧ x.ms + (13 * charUs s + 500) / 1000 < 36525 * 86400000 := by
  rw [adopts, Bool.and_eq_true, Bool.and_eq_true, decide_eq_true_iff, decide_eq_true_iff, Bool.or_eq_true, bne_iff_ne,
    and_assoc, and_assoc]
  rfl

/-- R12: a time adopted within the slew limit: the grade taken, then a slew. -/
theorem takeTime_slew {src : Byte} {x : TimeIn} {new : Nat} {s v : State} (hadopts : adopts s src.toNat x = true)
    (hv : recomputeLevel (setGrade (x.grade + 1) s) = v) (hnew : x.ms + (13 * charUs s + 500) / 1000 = new)
    (hnear : ((new : Int) - clockMs v).natAbs ≤ 500) :
    takeTime src.toNat x s = startSlew ((new : Int) - clockMs v) v := by
  subst hv hnew
  exact (if_pos hadopts).trans (if_pos hnear)

/-- R12: one beyond it: the grade taken, then a step. -/
theorem takeTime_step {src : Byte} {x : TimeIn} {new : Nat} {s v : State} (hadopts : adopts s src.toNat x = true)
    (hv : recomputeLevel (setGrade (x.grade + 1) s) = v) (hnew : x.ms + (13 * charUs s + 500) / 1000 = new)
    (hfar : ¬((new : Int) - clockMs v).natAbs ≤ 500) : takeTime src.toNat x s = stepClock new v := by
  subst hv hnew
  exact (if_pos hadopts).trans (if_neg hfar)

/-- R13: the fault unit after a forward step in IDLE: the moments missed, recorded by the clock the step sets. -/
theorem stepClock_faults {new : Nat} {s w : State} (hidle : s.she.engine = .idle) (hlt : clockMs s < new)
    (hflt : w.flt = s.flt) (himl : w.iml = s.iml) (hqueue : w.bus.queue.length = s.bus.queue.length)
    (hclk : clockMs w = new) : (stepClock new s).flt =
      if missedAtStep s.sck.slots (clockMs s) new = [] then s.flt
      else (raiseFault .slotMissed (min (missedAtStep s.sck.slots (clockMs s) new).length 255) w).flt := by
  obtain ⟨q, hclkv, -, hforward, -⟩ := stepClock_eq s.now new s rfl
  rw [hforward hlt hidle]
  dsimp only
  split
  · rfl
  · exact raiseFault_flt_congr _ _ hflt.symm himl.symm hqueue.symm (hclkv.trans hclk.symm)

theorem entryInForce_eq (s : State) : entryInForce s = s.sck.entry.bind fun i => s.sck.calendar[i]? := by
  unfold entryInForce
  cases s.sck.entry <;> rfl

theorem sheAfterStep_congr (t old new : Nat) (mayCall : Bool) {u v : State} (hslots : u.sck.slots = v.sck.slots)
    (hlast : u.sck.lastSlot = v.sck.lastSlot) (himl : u.iml = v.iml) (hshe : u.she = v.she) :
    sheAfterStep t old new mayCall u = sheAfterStep t old new mayCall v := by
  simp only [sheAfterStep, hslots, hlast, himl, hshe, ownNo]

/-- Settles O12: the period's TIME; a TIME heard is ignored, slewed to, or stepped to (`stepClock_eq`). -/
theorem timeIsQueuedAndAdopted : Obligations.TimeIsQueuedAndAdopted := by
  refine ⟨?_, ?_⟩
  · intro t e s hlive htimer he s1
    have hexec := exec_timePeriodExpiry hlive htimer he
    refine ⟨fun hsends hnone => ?_, fun hnot => ?_⟩
    · have hany : ¬(s1.bus.queue.any fun f => isTime f.content) = true := by
        rw [any_isTime_iff]
        exact fun ⟨f, hf, v, hv⟩ => hnone f hf v hv
      rw [hexec, if_pos ((maySend_iff s).mpr hsends), queueTime, if_neg hany]
    · rw [hexec]
      by_cases hsends : maySend s = true
      · have hany := any_isTime_iff.mpr (hnot.resolve_left fun h => h ((maySend_iff s).mp hsends))
        rw [if_pos hsends, queueTime, if_pos (by exact hany)]
      · rw [if_neg hsends]
  · intro t src p x s hh hparse new own here good
    have hexec : exec (.time t src p) s = .next (takeTime src.toNat x (heardAt t src s)) := by
      calc exec (.time t src p) s
          = event t (hear src true (withLayout (parseTime p) (takeTime src.toNat))) s := rfl
        _ = _ := by rw [event_heard hh, hparse, withLayout]
    have hadopts : adopts (heardAt t src s) src.toNat x = true ↔ good := adopts_iff
    have hgrade : recomputeLevel (setGrade (x.grade + 1) (heardAt t src s)) = { heardAt t src s with
        sck := { s.sck with grade := x.grade + 1, ageTimer := some (t + 14400000000), level := here }
        chr := { s.chr with lamps := lampsAt t here s } } := gradeTaken_eq _ _
    refine ⟨fun hnot => ?_, fun hgood hle hge => ?_, fun hgood hfar => ?_⟩
    · rw [hexec, takeTime, if_neg fun h => hnot (hadopts.mp h)]
    · have hnear : ((new : Int) - own).natAbs ≤ 500 := by omega
      rw [hexec, takeTime_slew (new := new) (hadopts.mpr hgood) hgrade rfl hnear]
      rfl
    · have hstep : ¬((new : Int) - own).natAbs ≤ 500 := by omega
      rw [takeTime_step (new := new) (hadopts.mpr hgood) hgrade rfl hstep] at hexec
      obtain ⟨q, hclk, hback, hidle, h, f, b, hframe⟩ := stepClock_eq t new { heardAt t src s with
        sck := { s.sck with grade := x.grade + 1, ageTimer := some (t + 14400000000), level := here }
        chr := { s.chr with lamps := lampsAt t here s } } rfl
      refine ⟨_, hexec, ?_⟩
      rw [hframe]
      refine ⟨hclk, rfl, rfl, rfl, rfl, rfl, rfl, rfl, ?_, rfl, rfl, rfl, rfl, rfl, ?_, ?_, ?_⟩
      · rw [entryInForce_eq]
      · exact congrArg (fun l => ({ s.chr with lamps := l } : Chr)) (lampsAt_congr t _ rfl rfl rfl rfl)
      · intro hle
        have hstep := hframe.symm.trans (hback hle)
        exact ⟨(congrArg State.she hstep).trans rfl, (congrArg State.flt hstep).trans rfl⟩
      · intro hlt hengine late
        have hstep := hframe.symm.trans (hidle hlt hengine)
        have hgrade14 : x.grade + 1 ≤ 14 := hgood.2.1
        refine ⟨?_, ?_⟩
        · refine (congrArg State.she hstep).trans ?_
          simp only [hgrade14, true_and]
          exact sheAfterStep_congr t own new _ rfl rfl rfl rfl
        · rw [← hframe]
          refine stepClock_faults ?_ ?_ ?_ ?_ ?_ ((clockMs_of_sck ?_ ?_ ?_).trans hclk)
          exacts [hengine, hlt, rfl, rfl, rfl, rfl, rfl, by rw [hframe]]

theorem exec_setTime_served {t : Nat} {src : Byte} {p : List Byte} {day tod new : Nat} {s : State}
    (hh : Hears t src s) (hserves : Serves src s) (hparse : parseSetTime p = some (day, tod)) (htod : tod < 86400000)
    (hnew : day * 86400000 + tod + (11 * charUs s + 500) / 1000 = new) (hrange : new < 36525 * 86400000) :
    exec (.setTime t src p) s = .next (recomputeLevel (setGrade 1 (stepClock new (heardAt t src s)))) := by
  have hserves' : inServiceSet (heardAt t src s) src.toNat = true := hserves
  calc exec (.setTime t src p) s
      = event t (hear src false (withLayout (parseSetTime p) (serveSetTime src))) s := rfl
    _ = .next (takeSetTime day tod (heardAt t src s)) := by
      rw [event_heard hh, hparse, withLayout, serveSetTime, withAccess, if_pos hserves']
    _ = _ := by
      subst hnew
      exact congrArg Host.Outcome.next (if_pos ⟨htod, hrange⟩)

/-- Settles O13: the step (`stepClock_eq`), then grade 1 taken. -/
theorem setTimeStepsTheClock : Obligations.SetTimeStepsTheClock := by
  intro t src p day tod s hh hserves hparse htod new old hrange
  have hexec := exec_setTime_served (new := new) hh hserves hparse htod rfl hrange
  obtain ⟨q, hclk, hback, hidle, h, f, b, hframe⟩ := stepClock_eq t new (heardAt t src s) rfl
  clear_value new
  obtain ⟨hin, hrec⟩ := stepClock_show new (heardAt t src s)
  obtain ⟨x, hx⟩ : ∃ x, x = stepClock new (heardAt t src s) := ⟨_, rfl⟩
  rw [← hx] at hexec hframe hback hidle hin hrec
  have hclkx : clockMs x = new := by
    rw [hframe]
    exact (clockMs_of_sck rfl rfl rfl).trans hclk
  have hnow : x.now = t := by rw [hframe]; rfl
  obtain ⟨u, hu⟩ : ∃ u, u = recomputeLevel (setGrade 1 x) := ⟨_, rfl⟩
  have hclku : clockMs u = new := by rw [hu, clockMs_gradeTaken, hclkx]
  rw [← hu] at hexec
  simp only [gradeTaken_eq, hclkx, hnow] at hu
  have hentry : entryInForce u = entryInForce x := by rw [hu]; rfl
  have hlevel : x.sck.level = levelAt (entryInForce u) s.sck.grade u.sck.quiet.isSome (new % 86400000 / 60000) := by
    rw [hentry, entryInForce_eq, hu, hframe]
    rfl
  have hlevelu : u.sck.level = levelAt (entryInForce u) 1 u.sck.quiet.isSome (new % 86400000 / 60000) := by
    rw [hentry, hu]
  refine ⟨u, hexec, hclku, ?_⟩
  have hlevelx : x.sck.level = levelAt ((matchDay s.sck.calendar (new / 86400000)).bind fun i => s.sck.calendar[i]?)
      s.sck.grade q.isSome (new % 86400000 / 60000) := by
    rw [hframe]
    rfl
  have hlampsx : x.chr.lamps = lampsAt t x.sck.level s := by rw [hframe]; rfl
  refine ⟨by rw [hu, hframe], by rw [hu, hframe], by rw [hu, hframe], by rw [hu], by rw [hu],
    by rw [hu, hframe]; rfl, by rw [hu, hframe]; rfl, hlevelu, by rw [hu, hframe]; rfl,
    by rw [hu, hframe]; rfl, by rw [hu, hframe]; rfl, by rw [hu, hframe]; rfl, by rw [hu, hframe]; rfl, ?_, ?_, ?_⟩
  · intro before
    have hvia : u.chr.lamps = lampsVia t before u.sck.level s := by
      rw [hu]
      exact lampsAt_congr t _ hlevel hin hrec (hlampsx.trans (congrArg (lampsAt t · s) hlevel))
    have hchr : u.chr = { s.chr with lamps := u.chr.lamps } := by
      rw [hu, hframe]
      rfl
    exact hchr.trans (by rw [hvia])
  · intro hle
    rw [hu, hback hle]
    exact ⟨rfl, rfl⟩
  · intro hlt hengine late
    have hstep := hidle hlt hengine
    have hcalls : (s.sck.grade ≤ 14 ∧ x.sck.level ≠ .closed) ↔ (s.sck.grade ≤ 14 ∧ u.sck.level ≠ .closed) := by
      refine and_congr_right fun hle => ?_
      rw [hlevel, hlevelu, levelAt_grade (g' := 1) (by omega) (by decide)]
    have hshe : u.she = x.she := by rw [hu]
    have hflt : u.flt = x.flt := by rw [hu]
    refine ⟨?_, ?_⟩
    · refine hshe.trans ((congrArg State.she hstep).trans ?_)
      have hdecide : decide (s.sck.grade ≤ 14 ∧ u.sck.level ≠ .closed)
          = decide (s.sck.grade ≤ 14 ∧ x.sck.level ≠ .closed) := decide_eq_decide.mpr hcalls.symm
      rw [hdecide]
      simp only [hlevelx]
      exact sheAfterStep_congr t old new _ rfl rfl rfl rfl
    · have hnowu : u.now = t := by rw [hu]
      have hresetu : u.inReset = s.inReset := by rw [hu, hframe, heardAt]
      have hclkv : clockMs { heardAt t src s with sck := u.sck } = new :=
        (clockMs_of_sck (u := { heardAt t src s with sck := u.sck }) hnowu.symm hresetu.symm rfl).trans hclku
      rw [hflt, hx]
      exact stepClock_faults (s := heardAt t src s) (w := { heardAt t src s with sck := u.sck }) hengine hlt rfl rfl rfl
        hclkv

end Sys2Proof.Machine

/-! SUPPORT. Proofs about service requests, faults and the fault pin (chapter 11). -/

namespace Sys2Proof.Machine

/-! ## The fault list and the FAULT frame (R168 to R171) -/

theorem reportsFault_iff {s : State} {c : FaultCode} {d : Nat} : reportsFault s c d = true ↔
    Sends s ∧ (faultClass c = .stop ∨ (faultClass c = .degraded ∧ s.flt.maskDegraded = true)
        ∨ (faultClass c = .advisory ∧ s.flt.maskAdvisory = true))
      ∧ ¬((c = .txDisplaced ∨ c = .txDropped) ∧ d = 0x40) := by
  have hmask : (match faultClass c with
      | .stop => true
      | .degraded => s.flt.maskDegraded
      | .advisory => s.flt.maskAdvisory) = true
      ↔ (faultClass c = .stop ∨ (faultClass c = .degraded ∧ s.flt.maskDegraded = true)
        ∨ (faultClass c = .advisory ∧ s.flt.maskAdvisory = true)) := by
    cases faultClass c <;> simp
  have hown : (!((c == .txDisplaced || c == .txDropped) && d == 0x40)) = true
      ↔ ¬((c = .txDisplaced ∨ c = .txDropped) ∧ d = 0x40) := by
    simp only [Bool.not_eq_true', ← Bool.not_eq_true, Bool.and_eq_true, Bool.or_eq_true, beq_iff_eq]
  rw [← maySend_iff, ← hmask, ← hown, ← and_assoc]
  exact Bool.and_eq_true_iff.trans (and_congr_left' Bool.and_eq_true_iff)

/-- Settles O17, by whether the fault is reported. -/
theorem faultIsRecordedCountedAndReported : Obligations.FaultIsRecordedCountedAndReported := by
  intro c d s hroom reported flt
  have hiff : reportsFault s c d = true ↔ reported := reportsFault_iff
  have hrecord : recordFault c d s = { s with flt := flt } := by
    have hcount : countAdvisory c s.flt.counters = match advisoryIndex c with
        | some i => s.flt.counters.set i (min 255 (s.flt.counters.getD i 0 + 1))
        | none => s.flt.counters := by
      unfold countAdvisory
      cases advisoryIndex c with
      | none => rfl
      | some i => simp only [bump]
    simp only [recordFault, State.modFlt, hcount]
    rfl
  rw [raiseFault_room _ _ _ hroom, hrecord]
  exact ⟨fun hnot => if_neg fun h => hnot (hiff.mp h), fun hyes => if_pos (hiff.mpr hyes)⟩

/-! ## The fault pin (R170) -/

theorem jammedFigures_ne_nil {s : State} : jammedFigures s ≠ [] ↔ ∃ f ≤ 6, (figRun s f).state = .jammed
    ∨ ((figRun s f).state = .homing ∧ (∃ r, (figRun s f).run = some r ∧ r.fromJam = true)
      ∧ Config.jamConditionWhileHoming = true) := by
  simp only [jammedFigures, homesFromJam, ne_eq, List.filter_eq_nil_iff, List.mem_range, Bool.or_eq_true,
    Bool.and_eq_true, decide_eq_true_eq, Option.any_eq_true, not_forall, not_not, and_assoc]
  exact exists_congr fun f => by rw [exists_prop, Nat.lt_succ_iff]

theorem figsIn_ne_nil {s : State} {st : FigState} : figsIn s st ≠ [] ↔ ∃ f ≤ 6, (figRun s f).state = st := by
  simp only [figsIn, ne_eq, List.filter_eq_nil_iff, List.mem_range, decide_eq_true_eq, not_forall, not_not]
  exact exists_congr fun f => by rw [exists_prop, Nat.lt_succ_iff]

theorem badProgrammes_ne_nil {s : State} :
    badProgrammes s ≠ [] ↔ ∃ p < 32, (s.csq.directory.getD p DirEntry.absent).bad = true := by
  simp [badProgrammes, List.filter_eq_nil_iff]

/-- Settles O60: each part of `degraded`, as what it says of the state. -/
theorem faultPinFollowsItsCauses : Obligations.FaultPinFollowsItsCauses := by
  intro s
  have hdegraded : degraded s = true ↔ s.chr.rail = .cut ∨ badProgrammes s ≠ []
      ∨ (jammedFigures s ≠ [] ∨ figsIn s .failed ≠ []) := by
    simp [degraded, or_comm, or_left_comm]
  have hpin : faultPin s = true ↔ s.iml.station = .stopped ∨ (s.flt.pinOnDegraded = true ∧ degraded s = true) := by
    simp [faultPin, and_comm]
  have hfigures : (jammedFigures s ≠ [] ∨ figsIn s .failed ≠ []) ↔ ∃ f ≤ 6,
      (figRun s f).state = .jammed ∨ (figRun s f).state = .failed
        ∨ ((figRun s f).state = .homing ∧ (∃ r, (figRun s f).run = some r ∧ r.fromJam = true)
          ∧ Config.jamConditionWhileHoming = true) := by
    rw [jammedFigures_ne_nil, figsIn_ne_nil, ← exists_or]
    exact exists_congr fun f => by rw [← and_or_left, or_right_comm, or_assoc]
  rw [hpin, hdegraded, hfigures, badProgrammes_ne_nil]

/-! ## The access check (R173) -/

theorem withAccess_served {src : Byte} {s : State} (h : Serves src s) (owner : State → State) :
    withAccess src owner s = owner s := if_pos h

theorem withAccess_denied {src : Byte} {s : State} (h : ¬Serves src s) (owner : State → State) :
    withAccess src owner s = raiseFault .serviceDenied src.toNat s := if_neg h

/-- R173, for a request whose target set is carried: one from a stranger. -/
theorem forTargets_denied {src : Byte} {s : State} (h : ¬Serves src s) (m : Set32) (owner : State → State) :
    forTargets src m owner s = if Bits.mem m (ownNo s) then raiseFault .serviceDenied src.toNat s else s := by
  rw [forTargets, withAccess_denied h]

/-- Settles O14: whatever the request, the access check comes before its owner. -/
theorem strangersAreDenied : Obligations.StrangersAreDenied := by
  intro t src p s hh hrest hstranger denied
  have hstranger' : ¬Serves src (heardAt t src s) := hstranger
  refine ⟨fun x hparse => ?_, fun m g hparse => ?_, fun m g hparse => ?_, fun n g hparse => ?_, fun m hparse => ?_⟩
  · calc exec (.setTime t src p) s
        = event t (hear src false (withLayout (parseSetTime p) (serveSetTime src))) s := rfl
      _ = _ := by rw [event_heard hh, hparse, withLayout, serveSetTime, withAccess_denied hstranger']
  · calc exec (.playNow t src p) s
        = event t (hear src false (withLayout (parsePlayNow p) (servePlayNow src))) s := rfl
      _ = _ := by
        rw [event_heard hh, hparse, withLayout, servePlayNow, forTargets_denied hstranger']
        exact apply_ite Host.Outcome.next _ _ _
  · calc exec (.quietUntil t src p) s
        = event t (hear src false (withLayout (parseQuietUntil p) (serveQuiet src))) s := rfl
      _ = _ := by
        rw [event_heard hh, hparse, withLayout, serveQuiet, forTargets_denied hstranger']
        exact apply_ite Host.Outcome.next _ _ _
  · calc exec (.statusQuery t src p) s
        = event t (hear src false (withLayout (parseStatusQuery p) (serveQuery src))) s := rfl
      _ = _ := by
        rw [event_heard hh, hparse, withLayout, serveQuery, withAccess_denied hstranger']
        exact apply_ite Host.Outcome.next _ _ _
  · calc exec (.restart t src p) s
        = zoneEvent t (hear src false (withLayout (parseRestart p) (serveRestart src))) s := rfl
      _ = _ := by
        rw [zoneEvent_heard hh, hparse, withLayout, serveRestart, forTargets_denied hstranger', settleZones_rest]
        · exact apply_ite Host.Outcome.next _ _ _
        · split
          · rw [ZonesAtRest, raiseFault_zon]
            exact hrest
          · exact hrest

/-! ## PLAY_NOW and QUIET_UNTIL (R6, R20) -/

/-- R173, for a request whose target set is carried: an accepted one. -/
theorem forTargets_served {src : Byte} {m : Set32} {s : State} (hmem : Bits.mem m (ownNo s) = true)
    (h : Serves src s) (owner : State → State) : forTargets src m owner s = owner s := by
  rw [forTargets, if_pos hmem, withAccess_served h]

/-- R6: the override set or cleared, and the level worked again by it. -/
theorem quietTaken_eq (quiet : Option Nat) (s : State) :
    recomputeLevel (s.modSck fun k => { k with quiet := quiet }) =
      let level := levelAt (entryInForce s) s.sck.grade quiet.isSome (minuteOfDay s)
      { s with
        chr := { s.chr with lamps := lampsAt s.now level s }
        sck := { s.sck with quiet := quiet, level := level } } := by
  rw [recomputeLevel_eq, levelOf_eq]
  rfl

/-- R6: what a QUIET_UNTIL accepted comes to. -/
theorem takeQuiet_eq (n : Nat) (s : State) : takeQuiet n s =
    let now := minuteNo s
    let ends := if now % 1440 < n then now / 1440 * 1440 + n else now / 1440 * 1440 + n + 1440
    if 1440 ≤ n ∧ n ≠ 0xFFFF then s
    else
      let level := levelAt (entryInForce s) s.sck.grade (n ≠ 0xFFFF) (now % 1440)
      { s with
        chr := { s.chr with lamps := lampsAt s.now level s }
        sck := { s.sck with
          quiet := if n = 0xFFFF then none else some (ends % (36525 * 1440)), level := level } } := by
  have hday : dayNo s = minuteNo s / 1440 := (day_minute_of_ms (clockMs s)).1
  have hminute : minuteOfDay s = minuteNo s % 1440 := (day_minute_of_ms (clockMs s)).2
  rw [takeQuiet, quietTaken_eq, hday, hminute]
  by_cases hclear : n = 0xFFFF
  · simp only [hclear, if_true, ne_eq, not_true_eq_false, and_false, if_false, Option.isSome_none, decide_false]
  · by_cases hrange : n < 1440
    · simp only [quietTaken_eq, hminute, hclear, hrange, not_le.mpr hrange, if_true, if_false, false_and, ne_eq,
        not_false_eq_true, Option.isSome_some, decide_true]
    · simp only [hclear, hrange, not_lt.mp hrange, if_true, if_false, true_and, ne_eq, not_false_eq_true]

/-- Settles O15. -/
theorem acceptedPlayNowAndQuietUntil : Obligations.AcceptedPlayNowAndQuietUntil := by
  intro t src p m n s hh hserves hmem
  have hserves' : Serves src (heardAt t src s) := hserves
  refine ⟨fun hparse hidle hstation hgrade => ?_, ?_⟩
  · have hcalls : s.iml.station = .inService ∧ s.sck.grade ≤ 14 ∧ (s.sck.level ≠ .closed ∨ 2047 = 2047) :=
      ⟨hstation, hgrade, .inr rfl⟩
    calc exec (.playNow t src p) s
        = event t (hear src false (withLayout (parsePlayNow p) (servePlayNow src))) s := rfl
      _ = .next (slotMoment 2047 none (dayNo (heardAt t src s)) (some n) (heardAt t src s)) := by
        rw [event_heard hh, hparse, withLayout, servePlayNow, forTargets_served (s := heardAt t src s) hmem hserves']
      _ = _ := by
        rw [slotMoment_idle (by exact hidle)]
        exact congrArg (fun h => Host.Outcome.next { heardAt t src s with she := h }) (if_pos hcalls)
  · intro hparse now ends
    calc exec (.quietUntil t src p) s
        = event t (hear src false (withLayout (parseQuietUntil p) (serveQuiet src))) s := rfl
      _ = .next (takeQuiet n (heardAt t src s)) := by
        rw [event_heard hh, hparse, withLayout, serveQuiet, forTargets_served (s := heardAt t src s) hmem hserves']
      _ = _ := by
        rw [takeQuiet_eq]
        rfl

/-! ## The pages of STATUS (R175, Table 8) -/

theorem figureSetByte_bit {l : List Nat} {f : Nat} (hf : f < 8) :
    (BitVec.ofNat 8 (figureSetByte l)).getLsbD f = true ↔ f ∈ l := by
  have hmem := mem_ofList (w := 8) l f
  rw [figureSetByte, BitVec.ofNat_toNat, BitVec.setWidth_eq]
  change Bits.mem (Bits.ofList 8 l) f = true ↔ _
  rw [hmem]
  simp [hf]

theorem mem_jammedFigures {s : State} {f : Nat} : f ∈ jammedFigures s ↔ f < 7 ∧ ((figRun s f).state = .jammed
    ∨ ((figRun s f).state = .homing ∧ (∃ r, (figRun s f).run = some r ∧ r.fromJam = true)
      ∧ Config.jamConditionWhileHoming = true)) := by
  simp only [jammedFigures, homesFromJam, List.mem_filter, List.mem_range, Bool.or_eq_true, Bool.and_eq_true,
    decide_eq_true_eq, Option.any_eq_true, and_assoc]

theorem mem_figsIn {s : State} {st : FigState} {f : Nat} : f ∈ figsIn s st ↔ f < 7 ∧ (figRun s f).state = st := by
  simp [figsIn]

theorem peersPresent_eq (s : State) :
    peersPresent s = (s.bus.peers.filter fun p => decide (p ≠ .unknown ∧ p ≠ .silent)).length := by
  refine congrArg List.length (List.filter_congr fun p _ => ?_)
  cases p <;> simp

theorem badProgrammes_head (s : State) : (badProgrammes s).head?
    = (List.range 32).find? fun p => (s.csq.directory.getD p DirEntry.absent).bad := by
  rw [badProgrammes, List.head?_filter]

/-- Page 0, its fields in order. -/
theorem summaryPage_eq (s : State) : pageContents s 0 =
    [stationByte s, engineByte s.she.engine, (s.she.showRec.map (·.slot)).getD 0xFFFF,
      (s.she.showRec.map (·.slot)).getD 0xFFFF / 256, (s.she.showRec.map (·.prog)).getD 0xFF, s.sck.grade,
      levelByte s.sck.level, railByte s.chr.rail, figureSetByte (jammedFigures s), figureSetByte (figsIn s .failed),
      (badProgrammes s).head?.getD 0xFF, s.flt.list.length, peersPresent s, if faultPin s then 1 else 0].map
      (BitVec.ofNat 8) := rfl

theorem recordPage_eq (s : State) (n : Nat) : pageContents s (3 + n) = recordPage s.flt.list[n]? := by
  have hpage : pageContents s (3 + n) = recordPage s.flt.list[3 + n - 3]? := by
    rw [Nat.add_comm]
    rfl
  rw [hpage, Nat.add_sub_cancel_left]

/-- R174: the STATUS of a page, where none is queued. -/
theorem answerQuery_eq {page : Nat} {s : State} (hsends : Sends s)
    (hnone : ∀ f ∈ s.bus.queue, ∀ n c, f.content ≠ .status n c) :
    answerQuery page s = if page ≤ 10 then queueFrame (.status page (pageContents s page)) s else s := by
  have hfind : s.bus.queue.find? (fun f => isStatus f.content) = none :=
    List.find?_eq_none.mpr fun f hf his => by
      obtain ⟨n, c, hc⟩ := (isStatus_iff _).mp his
      exact hnone f hf n c hc
  rw [answerQuery, maySend_of_sends hsends, queueStatus, hfind]
  simp

/-! ## RESTART (R165) -/

theorem exec_restart_served {t : Nat} {src : Byte} {p : List Byte} {m : Set32} {s v : State} (hh : Hears t src s)
    (hserves : Serves src s) (hparse : parseRestart p = some m) (hmem : Bits.mem m (ownNo s) = true)
    (haccept : acceptRestart (heardAt t src s) = v) (hrest : ZonesAtRest v) : exec (.restart t src p) s = .next v := by
  calc exec (.restart t src p) s
      = zoneEvent t (hear src false (withLayout (parseRestart p) (serveRestart src))) s := rfl
    _ = _ := by
      rw [zoneEvent_heard hh, hparse, withLayout, serveRestart,
        forTargets_served (s := heardAt t src s) hmem hserves, haccept, settleZones_rest hrest]

theorem acceptRestart_due {s : State} (hnone : s.iml.restart = .none)
    (hout : inShow s = false ∨ ∀ r, s.she.showRec = some r → r.withdrawn = true) :
    acceptRestart s = s.modIml fun i => { i with restart := .due } := by
  rw [acceptRestart, if_pos hnone, if_neg]
  rintro ⟨hin, hrec⟩
  rcases hout with h | h
  · exact absurd hin (by simp [h])
  · obtain ⟨r, hr, hw⟩ := Option.map_eq_some_iff.mp hrec
    exact absurd (h r hr) (by simp [hw])

theorem acceptRestart_awaits {s w : State} {r : ShowRec} {id : Nat} (hnone : s.iml.restart = .none)
    (hin : inShow s = true) (hr : s.she.showRec = some r) (hw : r.withdrawn = false)
    (hwithdraw : withdrawShow .restart s = w) (hframe : restartFrame w = some id) :
    acceptRestart s = w.modIml fun i => { i with restart := .awaiting id } := by
  have hshow : inShow s = true ∧ (s.she.showRec.map (·.withdrawn)) = some false := ⟨hin, by rw [hr, ← hw]; rfl⟩
  rw [acceptRestart, if_pos hnone, if_pos hshow]
  simp only [hwithdraw, hframe]

/-- The restart's WITHDRAW, the youngest frame of a queue that holds no other. -/
theorem restartFrame_last {s : State} {q : List TxFrame} {id : Nat}
    (hqueue : s.bus.queue = q ++ [⟨id, .withdraw (showSlot s) .restart⟩])
    (hnone : ∀ f ∈ q, ∀ slot, f.content ≠ .withdraw slot .restart) : restartFrame s = some id := by
  have hq : q.find? (fun f => f.content == .withdraw (showSlot s) .restart) = none :=
    List.find?_eq_none.mpr fun f hf heq => hnone f hf _ (by simpa using heq)
  simp [restartFrame, hqueue, List.find?_append, hq]

/-- A fault's frames are FAULT frames. -/
theorem raiseFault_queue {c : FaultCode} {d : Nat} {s : State} (hroom : s.bus.queue.length < 8) {f : TxFrame}
    (hf : f ∈ (raiseFault c d s).bus.queue) : f ∈ s.bus.queue ∨ f.content = .fault c d := by
  rw [raiseFault_room _ _ _ hroom] at hf
  split at hf
  · rcases List.mem_append.mp hf with hold | hnew
    · exact .inl hold
    · exact .inr (by rw [List.mem_singleton.mp hnew])
  · exact .inl hf

theorem withdrawnFrom_showSlot (reason : Reason) (s : State) : showSlot (withdrawnFrom reason s) = showSlot s := by
  simp only [showSlot, withdrawnFrom, raiseFault_she]
  cases s.she.showRec <;> rfl

/-- R34: the WITHDRAW is the youngest frame of a station that has withdrawn; the frame before it, of those new, is the
fault's. -/
theorem withdrawnFrom_queue (reason : Reason) {s : State} (hroom : s.bus.queue.length < 8) : ∃ q id,
    (withdrawnFrom reason s).bus.queue = q ++ [⟨id, .withdraw (showSlot s) reason⟩]
      ∧ ∀ f ∈ q, f ∈ s.bus.queue ∨ ∃ d, f.content = .fault .withdrawn d := by
  refine ⟨_, _, List.filter_append .., fun f hf => ?_⟩
  rcases raiseFault_queue (by exact hroom) (List.mem_of_mem_filter hf) with hold | hnew
  · exact .inl hold
  · exact .inr ⟨_, hnew⟩

theorem withdrawnFrom_atRest (reason : Reason) {s : State} (hrest : ZonesAtRest s) :
    ZonesAtRest (withdrawnFrom reason s) := by
  have hzon : (withdrawnFrom reason s).zon = s.zon := by simp only [withdrawnFrom, raiseFault_zon]
  rw [ZonesAtRest, hzon]
  exact hrest

/-- R34, in SETTLING: out of the set, WITHDRAW queued, every lamp out. -/
theorem withdrawShow_settling {reason : Reason} {r : ShowRec} {s : State} (hsettling : s.she.engine = .settling)
    (hr : s.she.showRec = some r) (hw : r.withdrawn = false) (hsends : Sends s) (hroom : s.bus.queue.length < 8) :
    withdrawShow reason s = { s with
      she := { s.she with showRec := some (r.left (ownNo s)) }, bus := s.bus.queued (.withdraw r.slot reason)
      chr := { s.chr with lamps := s.chr.lamps.map fun _ => ⟨0, none⟩ } } := by
  have hleft : leaveShow s = { s with she := { s.she with showRec := some (r.left (ownNo s)) } } := by
    simp only [leaveShow, State.modShe, hr]
    rfl
  have hmuted : ¬isMuted s = true := by simp [sends_not_muted hsends]
  have hsend : sendWithdraw reason (leaveShow s) = queueFrame (.withdraw r.slot reason) (leaveShow s) := by
    rw [hleft]
    exact if_neg hmuted
  have hleaving : withdrawShow reason s = withdrawSettling reason s := by
    have hnot : (s.she.showRec.map (·.withdrawn)) = some false := by rw [hr, ← hw]; rfl
    simp only [withdrawShow, hsettling, hnot, if_true]
  rw [hleaving, withdrawSettling, hsend, hleft, queueFrame_room _ _ (by exact hroom)]
  rfl

/-- What the pages of STATUS hold (R175, Table 8). -/
theorem pages_hold (s : State) : ∃ jammed failed : Byte, pageContents s 0 = [
        BitVec.ofNat 8 (stationByte s), BitVec.ofNat 8 (engineByte s.she.engine),
        BitVec.ofNat 8 ((s.she.showRec.map (·.slot)).getD 0xFFFF),
        BitVec.ofNat 8 ((s.she.showRec.map (·.slot)).getD 0xFFFF / 256),
        BitVec.ofNat 8 ((s.she.showRec.map (·.prog)).getD 0xFF), BitVec.ofNat 8 s.sck.grade,
        BitVec.ofNat 8 (levelByte s.sck.level), BitVec.ofNat 8 (railByte s.chr.rail), jammed, failed,
        BitVec.ofNat 8 (((List.range 32).find? fun p => (s.csq.directory.getD p DirEntry.absent).bad).getD 0xFF),
        BitVec.ofNat 8 s.flt.list.length,
        BitVec.ofNat 8 (s.bus.peers.filter fun p => decide (p ≠ .unknown ∧ p ≠ .silent)).length,
        if faultPin s then 1 else 0]
      ∧ (∀ f < 8, jammed.getLsbD f = true ↔ f < 7 ∧ ((figRun s f).state = .jammed
          ∨ ((figRun s f).state = .homing ∧ (∃ r, (figRun s f).run = some r ∧ r.fromJam = true)
            ∧ Config.jamConditionWhileHoming = true)))
      ∧ ∀ f < 8, failed.getLsbD f = true ↔ f < 7 ∧ (figRun s f).state = .failed := by
  refine ⟨BitVec.ofNat 8 (figureSetByte (jammedFigures s)), BitVec.ofNat 8 (figureSetByte (figsIn s .failed)), ?_,
    fun f hf => (figureSetByte_bit hf).trans mem_jammedFigures, fun f hf => (figureSetByte_bit hf).trans mem_figsIn⟩
  rw [summaryPage_eq, peersPresent_eq, badProgrammes_head]
  cases faultPin s <;> rfl

/-- Settles O16: the pages, the query, and the restart, which waits for its WITHDRAW in a show. -/
theorem acceptedQueryAndRestart : Obligations.AcceptedQueryAndRestart := by
  refine ⟨?_, fun t src p s hh hrest hserves => ⟨fun n page hparse hnumber hsends hnone => ?_, ?_⟩⟩
  · intro s b
    refine ⟨?_, rfl, rfl, fun n _ => ?_⟩
    · obtain ⟨jammed, failed, hpage, hjammed, hfailed⟩ := pages_hold s
      refine ⟨jammed, failed, hpage.trans ?_, hjammed, hfailed⟩
      rfl
    · rw [recordPage_eq]
      cases s.flt.list[n]? <;> rfl
  · have hserves' : Serves src (heardAt t src s) := hserves
    have hown : (heardAt t src s).iml.number = some (n, page).1 := hnumber
    calc exec (.statusQuery t src p) s
        = event t (hear src false (withLayout (parseStatusQuery p) (serveQuery src))) s := rfl
      _ = .next (answerQuery page (heardAt t src s)) := by
        rw [event_heard hh, hparse, withLayout, serveQuery, if_pos hown, withAccess_served hserves']
      _ = _ := by rw [answerQuery_eq (s := heardAt t src s) hsends hnone]
  · intro m hparse hmem hnorestart h waits
    have hserved := fun v => exec_restart_served (v := v) hh hserves hparse hmem
    refine ⟨fun hout => ?_, fun r hr hw hsends hroom hnone => ⟨fun hengine hnofig => ?_, fun hsettling => ?_⟩⟩
    · exact hserved _ (acceptRestart_due (s := heardAt t src s) hnorestart hout) hrest
    · have hin : inShow h = true := by
        simp only [List.mem_cons, List.not_mem_nil, or_false] at hengine
        rcases hengine with he | he | he <;> simp [h, inShow, he]
      obtain ⟨q, id, hqueue, hold⟩ := withdrawnFrom_queue .restart (s := h) (hroom.trans (by decide))
      have hframe : restartFrame (withdrawnFrom .restart h) = some id := by
        refine restartFrame_last (by rw [withdrawnFrom_showSlot]; exact hqueue) fun f hf slot hc => ?_
        rcases hold f hf with hmem | ⟨d, hd⟩
        · exact hnone f hmem slot hc
        · exact absurd (hd.symm.trans hc) (by simp)
      have haccept := acceptRestart_awaits (s := h) hnorestart hin hr hw
        (withdrawShow_eq .restart h hengine hsends hnofig hroom) hframe
      exact ⟨⟨id, .withdraw (showSlot h) .restart⟩, by
        rw [hqueue]
        exact List.mem_append_right _ List.mem_cons_self, ⟨_, rfl⟩,
        hserved _ haccept (withdrawnFrom_atRest .restart (s := h) hrest)⟩
    · have hin : inShow h = true := by simp [h, inShow, hsettling]
      have hwithdraw := withdrawShow_settling (reason := .restart) (s := h) hsettling hr hw hsends
        (hroom.trans (by decide))
      have hframe := restartFrame_last (s := withdrawShow .restart h) (q := h.bus.queue) (id := h.bus.nextId)
        (by rw [hwithdraw]; rfl) hnone
      rw [hwithdraw] at hframe
      have haccept := acceptRestart_awaits (s := h) hnorestart hin hr hw hwithdraw hframe
      exact ⟨⟨h.bus.nextId, .withdraw r.slot .restart⟩, List.mem_append_right _ List.mem_cons_self, ⟨_, rfl⟩,
        hserved _ haccept hrest⟩

end Sys2Proof.Machine

/-! SUPPORT. Proofs about the line and the transmit queue (chapter 9). -/

namespace Sys2Proof.Machine

/-! ## Frames without an owner, and HELLO (R11, R36, R130) -/

theorem withoutMember_zon_eq (n : Nat) (s : State) : (withoutMember n s).zon = s.zon :=
  (congrArg State.zon (withoutMember_zon n s s.zon)).trans rfl

/-- A trial owed over an empty list as a member leaves: the member leaves, and no trial is owed. -/
theorem settleZones_removeMember (n : Nat) {s : State} (hreqs : s.zon.reqs = []) (hgranted : s.zon.granted = []) :
    settleZones trialFuel (removeMember n s) = removeMember n (s.modZon fun z => { z with trialDue := false }) := by
  rw [removeMember_eq, removeMember_eq]
  have hin : inShow (s.modZon fun z => { z with trialDue := false }) = inShow s := rfl
  rw [hin]
  split
  · rw [settleZones_empty (by rw [withoutMember_zon_eq, hreqs]) (by rw [withoutMember_zon_eq, hgranted])]
    refine Eq.trans ?_ (withoutMember_zon n s { s.zon with trialDue := false }).symm
    rw [State.modZon, withoutMember_zon_eq]
  · exact settleZones_empty hreqs hgranted _

/-- An entry of the view after the zones of a station have become FREE. -/
def ZoneEntry.freedFrom (src : Nat) : ZoneEntry → ZoneEntry
  | .free => .free
  | .pending st g w f => if st = src then .free else .pending st g w f
  | .held st f => if st = src then .free else .held st f

/-- R130: every zone of a station becomes FREE, and the list is to be tried. -/
theorem freeStation_eq {src : Nat} {s : State} (hsrc : 1 ≤ src ∧ src ≤ 30) (hown : src ≠ ownNo s) :
    freeStation src s = { s with zon := { s.zon with
      view := s.zon.view.map (ZoneEntry.freedFrom src), trialDue := true } } := by
  have hstation : isStation src = true := decide_eq_true hsrc
  have hview := mapView_eq_map (f := fun z e => if (fun _ => true) z ∧ stationOf e = some src then .free else e)
    (g := ZoneEntry.freedFrom src) (fun z e => by cases e <;> simp [stationOf, ZoneEntry.freedFrom]) s
  rw [freeStation, if_pos ⟨hstation, hown⟩, freeZones, hview, oweTrialIf]
  split <;> rfl

theorem timeForHello_queues {s : State} (hsends : Sends s) (hgrade : s.sck.grade ≤ 14)
    (hnone : ∀ f ∈ s.bus.queue, ∀ v, f.content ≠ .time v) (hroom : s.bus.queue.length < 8) :
    timeForHello s = { s with bus := { s.bus with
      queue := s.bus.queue ++ [⟨s.bus.nextId, .time none⟩], nextId := s.bus.nextId + 1 } } := by
  have hany : ¬(s.bus.queue.any fun f => isTime f.content) = true := by
    rw [any_isTime_iff]
    exact fun ⟨f, hf, v, hv⟩ => hnone f hf v hv
  rw [timeForHello, if_pos ⟨maySend_of_sends hsends, hgrade⟩, queueTime, if_neg hany, queueFrame_room _ _ hroom]

theorem timeForHello_none {s : State}
    (h : ¬Sends s ∨ s.sck.grade = 15 ∨ ∃ f ∈ s.bus.queue, ∃ v, f.content = .time v) : timeForHello s = s := by
  rw [timeForHello]
  split
  · next hmay =>
    rcases h with hnot | hgrade | htime
    · exact absurd ((maySend_iff s).mp hmay.1) hnot
    · omega
    · rw [queueTime, if_pos (any_isTime_iff.mpr htime)]
  · rfl

theorem exec_hello_heard {t : Nat} {src : Byte} {p : List Byte} {s : State} (hh : Hears t src s)
    (hlen : p.length = 1) (hsrc : 1 ≤ src.toNat ∧ src.toNat ≤ 30) : exec (.hello t src p) s =
      .next (settleZones trialFuel (removeMember src.toNat (timeForHello { heardAt t src s with zon := { s.zon with
        view := s.zon.view.map (ZoneEntry.freedFrom src.toNat), trialDue := true } }))) := by
  have hparse : parseHello p = some (p.getD 0 0) := if_pos hlen
  have hstation : isStation src.toNat = true := decide_eq_true hsrc
  have hown : src.toNat ≠ ownNo (heardAt t src s) := hears_not_own (s := s) hh hsrc.1
  calc exec (.hello t src p) s
      = zoneEvent t (hear src false (withLayout (parseHello p) (fun _ => takeHello src.toNat))) s := rfl
    _ = _ := by
      rw [zoneEvent_heard hh, hparse, withLayout, takeHello, if_pos hstation,
        freeStation_eq hsrc hown]
      rfl

/-- Settles O18: frames with no owner leave what `hear` leaves; a HELLO frees its station's zones, brings a TIME where
one is due, and takes its station out of the show. -/
theorem framesWithoutOwnerAndHelloAreTaken : Obligations.FramesWithoutOwnerAndHelloAreTaken := by
  refine ⟨fun t src kind p s hh => ⟨event_heard hh _ id, event_heard hh _ id, event_heard hh _ id⟩, ?_⟩
  intro t src p s hh hrest hlen h1 h30 hreqs hroom gone s1
  have hexec := exec_hello_heard hh hlen ⟨h1, h30⟩
  have hview : s.zon.view.map (ZoneEntry.freedFrom src.toNat) = s1.zon.view :=
    List.map_congr_left fun e _ => by cases e <;> rfl
  obtain ⟨htrial, hgranted⟩ := hrest
  refine ⟨fun hsends hgrade hnone => ?_, fun hnot => ?_⟩
  · rw [hexec, timeForHello_queues (by exact hsends) (by exact hgrade) (by exact hnone) (by exact hroom),
      settleZones_removeMember _ (by exact hreqs) (by exact hgranted), removeMember_eq, hview]
    simp only [State.modZon, ← htrial]
    rfl
  · rw [hexec, timeForHello_none (by exact hnot), settleZones_removeMember _ (by exact hreqs) (by exact hgranted),
      removeMember_eq, hview]
    simp only [State.modZon, ← htrial]
    rfl

/-! ## Characters and discards (R146, R148) -/

/-- R148, R122: a discard counted RX_BROKEN, every own claim in its window marked. -/
theorem countBroken_spec (rest : List Byte) (s : State) : ∃ marks, countBroken rest s = { s with
    zon := { s.zon with marks := marks }
    bus := { s.bus with assembly := rest, rxBroken := min 255 (s.bus.rxBroken + 1) } }
    ∧ ∀ g, g ∈ marks ↔ g ∈ s.zon.marks ∨ ∃ w f, .pending (ownNo s) g (some w) f ∈ s.zon.view :=
  ⟨_, rfl, fun g => mem_markDiscard g _⟩

/-- R148: what breaks the frame being assembled, at a character. -/
def breaksFrame (data : Byte) (mark : Bool) (a : List Byte) : Prop :=
  midFrame a = true ∧ (mark = true ∨ (a.length = 2 ∧ 24 < data.toNat))

theorem assemble_breaks {data : Byte} {mark : Bool} {s : State} (h : breaksFrame data mark s.bus.assembly) :
    assemble data mark s = countBroken (if mark then [data] else []) s := by
  obtain ⟨hmid, hbreak⟩ := h
  cases mark with
  | true => simp [assemble, hmid]
  | false => simp [assemble, hmid, hbreak.resolve_left (by decide)]

theorem assemble_joins {data : Byte} {mark : Bool} {s : State} (h : ¬breaksFrame data mark s.bus.assembly) :
    assemble data mark s = setAssembly
      (if mark then [data] else if midFrame s.bus.assembly then s.bus.assembly ++ [data] else []) s := by
  cases mark with
  | true =>
    have hmid : midFrame s.bus.assembly = false := Bool.eq_false_iff.mpr fun hmid => h ⟨hmid, .inl rfl⟩
    simp [assemble, hmid]
  | false =>
    cases hmid : midFrame s.bus.assembly with
    | true =>
      have hshort : ¬(s.bus.assembly.length = 2 ∧ 24 < data.toNat) := fun hlong => h ⟨hmid, .inr hlong⟩
      simp only [assemble, hmid, hshort, if_false, if_true, Bool.false_eq_true, Bool.true_eq_false]
    | false => simp [assemble, hmid]

theorem receives_of {s : State} (hon : s.bus.rxOn = true) (htx : s.bus.tx ≠ .sending) : receives s = true := by
  simp [receives, isSending, hon, htx]

/-- Settles O20. -/
theorem charactersJoinAndDiscardsAreCounted : Obligations.CharactersJoinAndDiscardsAreCounted := by
  refine ⟨?_, fun t s hlive hon htx => ⟨fun c hc => ?_, ?_, fun e => ?_⟩⟩
  · intro t d mark s hlive a inFrame broken
    have hexec : exec (.characterReceived t d mark) s = .next (takeCharacter d mark { s with now := t }) :=
      event_live hlive _
    have hframe : midFrame a = true ↔ inFrame := midFrame_iff a
    have hbroken : broken ↔ s.bus.tx ≠ .sending ∧ breaksFrame d mark a := by
      simp only [broken, breaksFrame, hframe]
    refine ⟨fun hoff => ?_, fun hon hnot => ?_, fun hon hyes => ?_⟩
    · rw [hexec, takeCharacter]
      simp only [hoff, Bool.false_eq_true, if_false]
    · have hline : takeCharacter d mark { s with now := t } = if isSending s then lineCharacter { s with now := t }
          else assemble d mark (lineCharacter { s with now := t }) := if_pos hon
      rw [hexec, hline]
      by_cases htx : s.bus.tx = .sending
      · have hsending : isSending s = true := by simp [isSending, htx]
        rw [if_pos hsending, if_pos htx]
        rfl
      · have hsending : ¬isSending s = true := by simpa [isSending] using htx
        rw [if_neg hsending, assemble_joins (s := lineCharacter { s with now := t })
          (by exact fun h => hnot (hbroken.mpr ⟨htx, h⟩)), if_neg htx]
        simp only [← hframe]
        rfl
    · obtain ⟨htx, hbreaks⟩ := hbroken.mp hyes
      have hline : takeCharacter d mark { s with now := t } = assemble d mark (lineCharacter { s with now := t }) := by
        have hsending : ¬isSending s = true := by simpa [isSending] using htx
        exact (if_pos hon).trans (if_neg hsending)
      rw [hexec, hline, assemble_breaks (by exact hbreaks)]
      obtain ⟨marks, hmarks, hmem⟩ := countBroken_spec (if mark then [d] else []) (lineCharacter { s with now := t })
      exact ⟨marks, congrArg Host.Outcome.next hmarks, hmem⟩
  · have hexec : exec (.frameBroken t c) s = .next (breakFrame c { s with now := t }) := event_live hlive _
    rw [hexec, breakFrame.eq_def, if_pos (receives_of (by exact hon) (by exact htx))]
    cases c with
    | strayBreak e => exact absurd rfl (hc e)
    | framing | badLength | newMark k | lineBreak e | gap =>
      obtain ⟨marks, hmarks, hmem⟩ := countBroken_spec _ _
      exact ⟨marks, congrArg Host.Outcome.next hmarks, hmem⟩
  · have hexec : exec (.frameCheckFail t) s = .next (checkFails { s with now := t }) := event_live hlive _
    rw [hexec, checkFails, if_pos (receives_of (by exact hon) (by exact htx))]
    exact ⟨_, rfl, fun g => mem_markDiscard g _⟩
  · have hexec : exec (.frameBroken t (.strayBreak e)) s = .next (breakFrame (.strayBreak e) { s with now := t }) :=
      event_live hlive _
    rw [hexec, breakFrame.eq_def, if_pos (receives_of (by exact hon) (by exact htx))]
    rfl

/-! ## Attempts (R151, R154) -/

theorem accessGap_eq (s : State) (c : Content) (fails : Nat) : accessGap s c fails = ((match frameClass c with
    | .urgent => 2
    | .showClass => 4
    | .routine => 6) + ownNo s % 4 + 2 * fails) * (if s.bus.fast then 44 else 176) := by
  rw [accessGap, charUs]
  cases frameClass c <;> rfl

theorem transmitterOn_of {s : State} (hsends : Sends s) (hdup : s.bus.dup = false) : transmitterOn s = true := by
  simp [transmitterOn, maySend_of_sends hsends, hdup]

/-- R151: IDLE, the first attempt of the chosen frame begins where the line has been idle for its gap. -/
theorem attemptStarts_idle {f : TxFrame} {s : State} (hon : transmitterOn s = true) (htx : s.bus.tx = .idle)
    (hchosen : chosen s = some f) : attemptStarts s = if accessGap s f.content 0 ≤ idleTime s then
      beginAttempt f (s.modBus fun b =>
        { b with fails := 0, pointer := if b.rotating then frameClass f.content else b.pointer })
      else s := by
  simp only [attemptStarts, hon, htx, hchosen, if_true]

/-- R151: in RETRY_WAIT, the next attempt of the frame in transmission. -/
theorem attemptStarts_retry {f : TxFrame} {s : State} (hon : transmitterOn s = true) (htx : s.bus.tx = .retryWait)
    (hcurrent : currentFrame s = some f) :
    attemptStarts s = if accessGap s f.content s.bus.fails ≤ idleTime s then beginAttempt f s else s := by
  simp only [attemptStarts, hon, htx, hcurrent, if_true]

/-- Settles O21: the frame chosen by either order, or the one in RETRY_WAIT, judged by its gap. -/
theorem firstAttemptBeginsAfterItsGap : Obligations.FirstAttemptBeginsAfterItsGap := by
  intro t f s hlive hsends hdup inFrame gap begins judged rank turn
  have hexec : exec (.attemptStart t) s = .next (attemptStarts { s with now := t }) := event_live hlive _
  have hon : transmitterOn { s with now := t } = true := transmitterOn_of (s := { s with now := t }) hsends hdup
  have hgap : ∀ fails, accessGap { s with now := t } f.content fails = gap fails := fun fails => accessGap_eq _ _ _
  have hjudged : ∀ fails cls, attemptStarts { s with now := t } = (if gap fails ≤ t - s.bus.idleFrom then
      beginAttempt f { s with now := t, bus := { s.bus with fails := fails, pointer := cls } }
      else { s with now := t }) → judged fails cls := by
    intro fails cls hstarts
    rw [hstarts] at hexec
    refine ⟨fun hle => ?_, fun hlt => ?_⟩
    · obtain ⟨marks, hbegin, hmem⟩ := begin_eq t f fails cls s
      rw [if_pos hle, hbegin] at hexec
      exact ⟨marks, hexec, hmem⟩
    · rw [if_neg (not_le.mpr hlt)] at hexec
      exact hexec
  have hidle : ∀ cls, s.bus.tx = .idle → chosen s = some f →
      (if s.bus.rotating then frameClass f.content else s.bus.pointer) = cls → judged 0 cls := by
    intro cls htx hchosen hcls
    subst hcls
    refine hjudged 0 _ ?_
    rw [attemptStarts_idle (s := { s with now := t }) hon htx hchosen, hgap]
    rfl
  refine ⟨fun l r htx hrot hqueue hbefore hafter => ?_, fun l r htx hrot hqueue hbefore hafter => ?_,
    fun htx hcurrent => ?_⟩
  · exact hidle _ htx (chosen_eq l r f s hrot hqueue hbefore hafter) (by rw [hrot]; rfl)
  · exact hidle _ htx (chosen_rot l r f s hrot hqueue hbefore hafter) (by rw [hrot]; rfl)
  · refine hjudged _ _ ?_
    rw [attemptStarts_retry (s := { s with now := t }) hon htx hcurrent, hgap]
    rfl

/-! ## The ends of attempts (R152, R153) -/

theorem onLoss_routine {f : TxFrame} (hclass : frameClass f.content = .routine) (hhello : ∀ r, f.content ≠ .hello r)
    (s : State) : onLoss f s = s := by
  unfold onLoss
  cases hc : f.content with
  | hello r => exact absurd hc (hhello r)
  | time v | fault c d | status n l => rfl
  | _ => simp [hc, frameClass] at hclass

/-- Of the routine frames the HELLO alone has an owner that takes its readback (R164). -/
theorem readBack_routine {f : TxFrame} (hclass : frameClass f.content = .routine) (s : State) :
    readBack f s = { s with iml := match f.content with
      | .hello _ => { s.iml with helloPending := false, helloLost := none }
      | _ => s.iml } := by
  unfold readBack
  cases hc : f.content with
  | hello r | time v | fault c d | status n l => rfl
  | _ => simp [hc, frameClass] at hclass

/-- Settles O22. -/
theorem attemptEndsSentBrokenOrDropped : Obligations.AttemptEndsSentBrokenOrDropped := by
  refine ⟨⟨?_, fun t e retry s hlive htx he => ?_⟩, fun t f s hlive hrest htx hcurrent htime hclass => ?_⟩
  · intro t f s hlive htx hcurrent broken
    have hcurrent' : currentFrame { s with now := t } = some f := hcurrent
    have hexec : exec (.collision t) s = .next (collide { s with now := t }) := event_live hlive _
    refine ⟨fun hfew => ?_, ?_⟩
    · have hlast : ¬3 ≤ s.bus.fails := by omega
      rw [hexec]
      simp only [collide, htx, hcurrent', hlast, decide_false, Bool.false_eq_true, if_false]
      rfl
    · intro hmany dropped
      have hdrop : exec (.collision t) s = .next (onLoss f dropped) := by
        rw [hexec]
        simp only [collide, htx, hcurrent', hmany, decide_true, if_true]
        rfl
      exact ⟨hdrop, fun hclass hhello => by rw [hdrop, onLoss_routine hclass hhello]⟩
  · have hexec : exec (.breakEnd t) s = .next (breakEnds { s with now := t }) := event_live hlive _
    rw [hexec]
    simp only [breakEnds, htx, he, if_true]
    rfl
  · have hcurrent' : currentFrame { s with now := t } = some f := hcurrent
    have hsent : frameIsSent { s with now := t }
        = readBack f (leaveQueue f ((frameEnds { s with now := t }).modBus fun b => { b with tx := .idle })) := by
      simp only [frameIsSent, htx, hcurrent']
      exact if_pos htime
    rw [readBack_routine hclass] at hsent
    exact zoneEvent_of hlive hrest frameIsSent hsent rfl

/-! ## Frames queued again (R43, R128, R164) -/

/-- Settles O23. -/
theorem lostFramesAreQueuedAgain : Obligations.LostFramesAreQueuedAgain := by
  intro t n s hlive hn hroom again
  refine ⟨fun g hgate hphase hlost => ?_, fun zones still hlost hstill hne => ?_, fun hpending hlost hsends => ?_⟩
  · have hexec : exec (.readyRequeue t) s = .next (requeueReady { s with now := t }) := event_live hlive _
    have hdue : g.phase = .readyQueued ∧ frameSince { s with now := t } g.readyLost = true :=
      ⟨hphase, by simp [frameSince, hlost, hn]⟩
    have hqueue : requeueReady { s with now := t } = queueReady g { s with now := t } := by
      simp only [requeueReady, hgate]
      exact if_pos hdue
    rw [hexec, hqueue, queueReady, modGate_some (s := { s with now := t }) hgate, queueFrame_room _ _ (by exact hroom)]
    rfl
  · have hexec : exec (.releaseRequeue t) s = .next (requeueReleases { s with now := t }) := event_live hlive _
    have hagain : requeueRelease { s with now := t, zon := { s.zon with releaseLost := [] } } zones
        = queueFrame (.release (Bits.ofList 64 still))
          { s with now := t, zon := { s.zon with releaseLost := [] } } := by
      rw [requeueRelease]
      exact (congrArg (fun l => if l = [] then _ else queueFrame (.release (Bits.ofList 64 l)) _) hstill.symm).trans
        (if_neg hne)
    have hdue : requeueReleases { s with now := t }
        = requeueRelease { s with now := t, zon := { s.zon with releaseLost := [] } } zones := by
      simp only [requeueReleases, State.modZon, hlost, List.filter_cons, List.filter_nil, hn, decide_true, if_true,
        Bool.not_true, Bool.false_eq_true, if_false]
      rfl
    rw [hexec, hdue, hagain, queueFrame_room _ _ (by exact hroom)]
  · have hexec : exec (.helloRequeue t) s = .next (requeueHello { s with now := t }) := event_live hlive _
    have hdue : s.iml.helloPending = true ∧ frameSince { s with now := t } s.iml.helloLost = true
        ∧ maySend { s with now := t } = true := ⟨hpending, by simp [frameSince, hlost, hn], maySend_of_sends hsends⟩
    rw [hexec, requeueHello, if_pos (by exact hdue), queueHello, queueFrame_room _ _ (by exact hroom)]
    rfl

end Sys2Proof.Machine

/-! SUPPORT. Proofs about the negotiation of a programme (chapter 2). -/

namespace Sys2Proof.Machine

/-! ## Calling (R20, R21) -/

theorem preferred_eq (s : State) (p : PendingSlot) : preferred s p = match p.requested, entryInForce s, p.kind with
    | some r, _, _ => r
    | none, some e, some .hour => e.prefHour
    | none, some e, some .other => e.prefOther
    | none, _, _ => 0 := by
  unfold preferred
  cases p.requested with
  | some r => rfl
  | none =>
    cases entryInForce s with
    | none => rfl
    | some e =>
      cases p.kind with
      | none => rfl
      | some k => cases k <;> rfl

/-- Settles O26. -/
theorem callDelayQueuesTheCall : Obligations.CallDelayQueuesTheCall := by
  intro t e p s hlive hengine hpend hdelay he hroom ok pref
  have hpref : preferred { s with now := t } p = pref := preferred_eq _ _
  have hout : s.she.engine = .callWait ∧ expired p.delay t = true := ⟨hengine, by simp [expired, hdelay, he]⟩
  have hexec : exec (.callDelayExpiry t) s = .next (callDelayExpires p { s with now := t }) := by
    calc exec (.callDelayExpiry t) s
        = event t callDelayOut s := rfl
      _ = _ := by
        rw [event_live hlive]
        simp only [callDelayOut, hpend]
        exact congrArg Host.Outcome.next (if_pos hout)
  have hmay : mayCall { s with now := t } p.slot = true ↔ ok := mayCall_iff
  refine ⟨fun hok => ?_, fun hnot => ?_⟩
  · rw [hexec, callDelayExpires, if_pos (hmay.mpr hok), hpref, queueFrame_room _ _ (by exact hroom)]
    rfl
  · rw [hexec, callDelayExpires, if_neg fun h => hnot (hmay.mp h), enterIdle_eq t _ rfl]
    rfl

/-! ## The day of a heard slot, and the CALLs that are acceptable (R10, R23) -/

theorem slotGap_eq (s : State) (slot : Nat) : slotGap s slot =
    ((slot * 60000 - timeOfDay s) + (timeOfDay s - slot * 60000), decide (slot * 60000 ≤ timeOfDay s)) := by
  simp only [slotGap, Config.minuteMs]
  split <;> simp <;> omega

/-- R10: the day whose moment lies less than half a day from the own time is the nearest. -/
theorem nearestDay_of_near {d slot : Nat} {s : State} (hd : d < 36525) (hslot : slot < 1440)
    (hnear : ((d * 86400000 + slot * 60000 : Nat) - (clockMs s : Int)).natAbs < 43200000) : nearestDay s slot = d := by
  have hclock : clockMs s = dayNo s * 86400000 + timeOfDay s := (Nat.div_add_mod' _ _).symm
  have htod : timeOfDay s < 86400000 := Nat.mod_lt _ (by decide)
  rw [hclock] at hnear
  rw [nearestDay, slotGap_eq]
  generalize timeOfDay s = tod at hnear htod ⊢
  by_cases hsame : (slot * 60000 - tod) + (tod - slot * 60000) < 43200000
  · exact (if_pos (.inl hsame)).trans (by omega)
  · have hhalf : ¬(slot * 60000 - tod) + (tod - slot * 60000) = 43200000 := by omega
    refine (if_neg fun h => h.elim hsame fun h => hhalf h.1).trans ?_
    by_cases hafter : slot * 60000 ≤ tod
    · refine (if_pos (decide_eq_true hafter)).trans ?_
      simp only [Config.centuryDays]
      omega
    · refine (if_neg (by simpa using hafter)).trans ?_
      simp only [Config.centuryDays]
      omega

theorem callAcceptable_service (s : State) : callAcceptable s 2047 = true ↔ s.iml.station = .inService := by
  simp [callAcceptable, isLastSlot]

theorem callAcceptable_listed {s : State} {slot : Nat} (hslot : slot < 1440) :
    callAcceptable s slot = true ↔ s.iml.station = .inService
      ∧ (s.sck.grade = 15 ∨
        let far := (slot * 60000 - clockMs s % 86400000) + (clockMs s % 86400000 - slot * 60000)
        min far (86400000 - far) ≤ 30000)
      ∧ s.sck.lastSlot ≠ some (slot, callDay s slot) ∧ s.sck.level ≠ .closed := by
  have hnot : slot ≠ 2047 := by omega
  have hdistance : slotDistance s slot = min ((slot * 60000 - clockMs s % 86400000)
      + (clockMs s % 86400000 - slot * 60000)) (86400000 - ((slot * 60000 - clockMs s % 86400000)
      + (clockMs s % 86400000 - slot * 60000))) := by
    simp only [slotDistance, slotGap_eq]
    rfl
  simp [callAcceptable, isLastSlot, callDay, hnot, hdistance, and_assoc, Config.graceMs]

/-! ## Answering a CALL (R22 to R26) -/

theorem removeFrame_nextId (id : Nat) (s : State) : (removeFrame id s).bus.nextId = s.bus.nextId := by
  unfold removeFrame
  split <;> rfl

/-- R23: the day of a heard slot depends on the clock alone. -/
theorem answerCall_eq (src slot : Nat) {h u : State} (hclk : clockMs h = clockMs u) :
    answerCall src slot u = queueFrame (.menu slot src (menuOf u)) { u with
      she := { u.she with
        engine := .answered, pend := none, gather := none
        answer := some ⟨slot, callDay h slot, src, u.bus.nextId, none⟩ } } := by
  rw [answerCall, callDay_congr hclk.symm]
  rfl

theorem exec_call_heard {t : Nat} {src : Byte} {p : List Byte} {c : CallIn} {s : State} (hh : Hears t src s)
    (hparse : parseCall p = some c) (hsrc : 1 ≤ src.toNat ∧ src.toNat ≤ 30) :
    exec (.call t src p) s = .next (takeCall src.toNat c (heardAt t src s))
      ∧ isStation src.toNat = true ∧ src.toNat ≠ ownNo (heardAt t src s) := by
  refine ⟨?_, decide_eq_true hsrc, hears_not_own (s := s) hh hsrc.1⟩
  calc exec (.call t src p) s
      = event t (hear src false (withLayout (parseCall p) (takeCall src.toNat))) s := rfl
    _ = _ := by rw [event_heard hh, hparse, withLayout]

/-- Settles O27: the day and the test of R23, then what a CALL does in each state of the engine. -/
theorem acceptableCallIsAnswered : Obligations.AcceptableCallIsAnswered := by
  intro t src p c s hh hparse h1 h30 h clock moment answered
  obtain ⟨hexec, hstation, hown⟩ := exec_call_heard hh hparse ⟨h1, h30⟩
  have hclock : clockMs h = clock := clockMs_of_sck rfl rfl rfl
  have hanswer : ∀ u : State, clockMs h = clockMs u → answerCall src.toNat c.slot u = answered u :=
    fun u hu => answerCall_eq _ _ hu
  have hremoved : ∀ id, clockMs h = clockMs (removeFrame id h) := fun id =>
    clockMs_of_sck (removeFrame_now h id).symm (removeFrame_inReset h id).symm (removeFrame_sck h id).symm
  have hraised : clockMs h = clockMs (raiseFault .slotSkipped 255 h) :=
    clockMs_of_sck (raiseFault_now ..).symm (raiseFault_inReset ..).symm (raiseFault_sck ..).symm
  have hshe : h.she = s.she := rfl
  change exec (.call t src p) s = .next (takeCall src.toNat c h) at hexec
  rw [takeCall, if_pos ⟨hstation, hown⟩] at hexec
  refine ⟨fun hservice => ?_, fun hlisted => ?_, fun hacceptable hstate => ?_, fun hacceptable hengine hother => ?_,
    fun hignored => ?_, fun g hengine hgather => ?_, fun a hengine hans => ?_⟩
  · rw [hservice]
    exact ⟨by rw [callDay, if_pos rfl, dayNo, hclock], callAcceptable_service h⟩
  · have hnot : c.slot ≠ 2047 := by omega
    refine ⟨fun d hd hnear => ?_, ?_⟩
    · rw [callDay, if_neg (by exact hnot)]
      exact nearestDay_of_near hd hlisted (by rw [hclock]; exact hnear)
    · rw [callAcceptable_listed hlisted, hclock]
      rfl
  · rw [hexec]
    rcases hstate with hidle | ⟨hwait, hsame⟩
    · simp only [hshe, hidle, hacceptable, if_true]
      rw [hanswer h rfl]
    · simp only [hshe, hwait, hacceptable, hsame, if_true]
      rw [hanswer h rfl]
  · rw [hexec]
    simp only [hshe, hengine, hacceptable, hother, if_true, if_false]
    rw [hanswer _ hraised]
  · rw [hexec]
    rcases hignored with hin | ⟨hunacceptable, hstate⟩
    · rw [inShow] at hin
      cases hengine : s.she.engine with
      | idle | callWait | calling | answered => simp [hengine] at hin
      | arming | gateWait | running | settling => simp only [hshe, hengine]
    · simp only [List.mem_cons, List.not_mem_nil, or_false] at hstate
      rcases hstate with hidle | hwait
      · simp only [hshe, hidle, hunacceptable, Bool.false_eq_true, if_false]
      · simp only [hshe, hwait, hunacceptable, Bool.false_eq_true, if_false]
  · have hcalling : exec (.call t src p) s = .next (if g.slot = c.slot then callWhileCalling src.toNat g h else h) := by
      rw [hexec]
      simp only [hshe, hengine, hgather]
    refine ⟨fun hslot => ?_, fun hslot hwindow hagree => ?_, fun hslot hlate hhigher => ?_,
      fun hslot hwindow hlower => ?_, fun a hslot hwindow hagree hlower => ?_⟩
    · rw [hcalling, if_neg hslot]
    · rw [hcalling, if_pos hslot, ← hanswer _ (hremoved _), ← hslot]
      simp only [callWhileCalling, hwindow, hagree]
    · have hnot : ¬src.toNat < ownNo h := not_lt.mpr hhigher
      rw [hcalling, if_pos hslot, callWhileCalling]
      cases hwindow : g.window with
      | some w => exact congrArg Host.Outcome.next (if_neg hnot)
      | none =>
        cases hagree : g.agree with
        | some a => exact congrArg Host.Outcome.next (if_neg hnot)
        | none => simp [hwindow, hagree] at hlate
    · obtain ⟨w, hw⟩ := Option.ne_none_iff_exists'.mp hwindow
      rw [hcalling, if_pos hslot, ← hanswer h rfl, ← hslot]
      simp only [callWhileCalling, hw]
      exact congrArg Host.Outcome.next (if_pos hlower)
    · rw [hcalling, if_pos hslot, ← hanswer _ (hremoved _), ← hslot]
      simp only [callWhileCalling, hwindow, hagree]
      exact congrArg Host.Outcome.next (if_pos hlower)
  · have hanswered : exec (.call t src p) s =
        .next (if a.slot = c.slot ∧ src.toNat < a.caller then moveToCaller src.toNat a h else h) := by
      rw [hexec]
      simp only [hshe, hengine, hans]
    refine ⟨fun hnot => ?_, fun hslot hlower => ?_⟩
    · rw [hanswered, if_neg]
      rintro ⟨hslot, hlower⟩
      rcases hnot with hother | hhigher
      · exact hother hslot
      · omega
    · rw [hanswered, if_pos ⟨hslot, hlower⟩, moveToCaller, hslot]
      simp only [State.modShe, removeFrame_nextId, removeFrame_she]
      rfl

/-! ## Arming or not (R30 to R32) -/

/-- The state of a station that arms for a programme 1 to 31 (R32, R40, R54): gate 0 open with its lead-in, the
programme's header being read. -/
def armedFor (r : ShowRec) (s : State) : State :=
  { s with
    sck := s.sck.dealt r.slot r.day
    chr := { s.chr with lamps := if s.sck.level = .closed ∧ r.slot = 2047 then lampsWorked s.now s else s.chr.lamps }
    she := ⟨.arming, none, none, none, some r⟩
    gtu := { s.gtu with
      gate := some ⟨some 0, .standing, 0, some (s.now + 1500000), 0, none, none, none, none, none⟩ }
    csq := { s.csq with
      parts := none, builtin := false, slotA := CueSlot.vacant, slotB := CueSlot.vacant
      play := Cursor.nowhere, lead := Cursor.nowhere, running := false, tau := 0, gatesDone := []
      gateAfter := none, gateTick := 0, nextMark := 0, wakeups := [], underruns := []
      port := [⟨.header, (s.csq.directory.getD r.prog DirEntry.absent).addr, 1, s.now⟩] } }

theorem enterArming_eq {r : ShowRec} {s : State} (hout : inShow s = false) (hprog : r.prog ≠ 0) :
    enterArming r s = armedFor r s := by
  rw [enterArming, judgeHold_arming r s hout, writeLastSlot_dealt, armCues, if_neg]
  · rfl
  · simp [playsBuiltin, progNo, hprog]

/-- R30, R31: a station that no longer can play: its talk removed, WITHDRAW queued, WITHDRAWN raised, IDLE. -/
theorem menuChanged_eq {slot day prog : Nat} {s : State} (hroom : s.bus.queue.length < 8) :
    menuChanged slot day prog s = idleAt s.now (raiseFault .withdrawn prog { removeFrames (isTalkOf slot) s with
      sck := s.sck.dealt slot day
      bus := (removeFrames (isTalkOf slot) s).bus.queued (.withdraw slot .menuChanged) }) := by
  have hroom' : (removeFrames (isTalkOf slot) s).bus.queue.length < 8 :=
    (List.length_filter_le _ _).trans_lt hroom
  rw [menuChanged, queueFrame_room _ _ hroom', writeLastSlot_dealt]
  exact enterIdle_eq _ _ (raiseFault_now ..)

theorem exec_agree_heard {t : Nat} {src : Byte} {p : List Byte} {x : AgreeIn} {s : State} (hh : Hears t src s)
    (hparse : parseAgree p = some x) (hsrc : 1 ≤ src.toNat ∧ src.toNat ≤ 30) :
    exec (.agree t src p) s = .next (takeAgree src.toNat x (heardAt t src s))
      ∧ isStation src.toNat = true ∧ src.toNat ≠ ownNo (heardAt t src s) := by
  refine ⟨?_, decide_eq_true hsrc, hears_not_own (s := s) hh hsrc.1⟩
  calc exec (.agree t src p) s
      = event t (hear src false (withLayout (parseAgree p) (takeAgree src.toNat))) s := rfl
    _ = _ := by rw [event_heard hh, hparse, withLayout]

theorem isLastSlot_iff {s : State} {slot : Nat} :
    isLastSlot s slot = true ↔ slot ≠ 2047 ∧ s.sck.lastSlot = some (slot, nearestDay s slot) := by
  simp [isLastSlot]

/-- Settles O31. -/
theorem agreeArmsOrLeavesOut : Obligations.AgreeArmsOrLeavesOut := by
  intro t src p x s hh hparse h1 h30 h
  obtain ⟨hexec, hstation, hown⟩ := exec_agree_heard hh hparse ⟨h1, h30⟩
  have hshe : h.she = s.she := rfl
  have hownNo : ownNo h = ownNo s := rfl
  change exec (.agree t src p) s = .next (takeAgree src.toNat x h) at hexec
  rw [takeAgree, if_pos ⟨hstation, hown⟩] at hexec
  refine ⟨fun a hengine hans hslot => ?_, ?_⟩
  · have hout : inShow h = false := by simp [inShow, hshe, hengine]
    have htalk : talkSlot h = some (a.slot, a.day) := by simp [talkSlot, hshe, hengine, hans]
    have hanswered : exec (.agree t src p) s = .next (if Bits.mem x.members (ownNo h) then
        agreeOrChange ⟨x.slot, a.day, x.prog, x.level, x.hour, x.members, false⟩ h
        else raiseFault .notIncluded src.toNat (enterIdle (writeLastSlot x.slot a.day
          (removeFrames (isTalkOf x.slot) h)))) := by
      rw [hexec]
      simp only [hshe, hengine, htalk, hslot, if_true]
    rw [hownNo] at hanswered
    refine ⟨fun hnamed hplays hprog => ?_, ?_, fun hnot => ?_⟩
    · rw [hanswered, if_pos hnamed, agreeOrChange, if_pos hplays, enterArming_eq hout hprog]
      rfl
    · intro hnamed hcannot hroom u
      rw [hanswered, if_pos hnamed, agreeOrChange, if_neg (by simp [hcannot]), menuChanged_eq (by exact hroom)]
      rfl
    · rw [hanswered, if_neg (by simp [hnot]), writeLastSlot_dealt, enterIdle_eq t _ rfl]
      rfl
  · intro hidle last
    have hlast : isLastSlot h x.slot = true ↔ last := isLastSlot_iff
    have hignores : exec (.agree t src p) s = .next (agreeInIdle x h) := by
      rw [hexec]
      simp only [hshe, hidle]
    refine ⟨fun hnot => ?_, fun hnamed hnew hsends hroom => ?_⟩
    · rw [hignores, agreeInIdle, if_neg]
      rintro ⟨hnamed, hnew⟩
      rcases hnot with hunnamed | hold
      · exact absurd hnamed (by simp [hownNo, hunnamed])
      · exact absurd (hlast.mpr hold) (by simp [hnew])
    · have hnew' : isLastSlot h x.slot = false := Bool.eq_false_iff.mpr fun hl => hnew (hlast.mp hl)
      rw [hignores, agreeInIdle, if_pos ⟨hnamed, hnew'⟩, if_pos (maySend_of_sends (s := h) hsends),
        queueFrame_room _ _ (by exact hroom), writeLastSlot_dealt]
      rfl

/-! ## Withdrawals heard, and the end of a show (R35, R37) -/

theorem exec_withdraw_heard {t : Nat} {src : Byte} {p : List Byte} {slot : Nat} {s : State} (hh : Hears t src s)
    (hparse : parseWithdraw p = some slot) :
    exec (.withdraw t src p) s = .next (takeWithdraw src.toNat slot (heardAt t src s)) := by
  calc exec (.withdraw t src p) s
      = event t (hear src false (withLayout (parseWithdraw p) (takeWithdraw src.toNat))) s := rfl
    _ = _ := by rw [event_heard hh, hparse, withLayout]

/-- Settles O33. -/
theorem settledShowEndsInIdle : Obligations.SettledShowEndsInIdle := by
  intro t s hlive hsettling rest
  have hbusy : (!s.fig.run.any figureBusy) = true
      ↔ ∀ r ∈ s.fig.run, r.state ∉ [.waitZone, .moving, .paused, .homing] := by
    simp only [Bool.not_eq_true', List.any_eq_false]
    refine forall₂_congr fun r _ => ?_
    unfold figureBusy
    cases r.state <;> simp
  have hsettled : settled { s with now := t } = true ↔ rest := by
    have hall : dampersDown { s with now := t } = true ↔ ∀ r ∈ s.bel.run, r.damper = .down := by
      simp [dampersDown]
    simp only [settled, rest, ← hbusy, ← hall, Bool.and_eq_true, beq_iff_eq, hsettling, true_and, List.isEmpty_iff,
      and_assoc]
  have hexec : exec (.settlingDone t) s
      = .next (if settled { s with now := t } then enterIdle { s with now := t } else { s with now := t }) :=
    event_live hlive fun s => if settled s then enterIdle s else s
  refine ⟨fun hrest => ?_, fun hnot => ?_⟩
  · rw [hexec, if_pos (hsettled.mpr hrest), enterIdle_eq t _ rfl]
    rfl
  · rw [hexec, if_neg fun h => hnot (hsettled.mp h)]

/-- What the end of an own frame on the line leaves before its owner takes it (R152). -/
def sentAt (t : Nat) (f : TxFrame) (s : State) : State :=
  { s with now := t, bus := { s.bus with
    tx := .idle, current := none, fails := 0, assembly := [], lastChar := t, idleFrom := t
    frameEnds := s.bus.frameEnds + 1, queue := s.bus.queue.filter fun g => g.id != f.id } }

/-- R152: an own frame whose every character has been read back is its owner's, and the zones are settled after it. -/
theorem exec_frameSent {t : Nat} {f : TxFrame} {s : State} (hlive : Live t s) (htx : s.bus.tx = .sending)
    (hcurrent : currentFrame s = some f)
    (htime : s.bus.attemptAt + frameChars f.content * (if s.bus.fast then 44 else 176) ≤ t) :
    exec (.frameSent t) s = .next (settleZones trialFuel (readBack f (sentAt t f s))) := by
  have hcurrent' : currentFrame { s with now := t } = some f := hcurrent
  have hsent : frameIsSent { s with now := t } = readBack f (sentAt t f s) := by
    simp only [frameIsSent, htx, hcurrent']
    exact if_pos htime
  calc exec (.frameSent t) s
      = event t (fun s => settleZones trialFuel (frameIsSent s)) s := rfl
    _ = _ := by rw [event_live hlive, hsent]

/-- R35: a WITHDRAW of another station for the slot of the show takes its source out. -/
theorem takeWithdraw_eq {src slot : Nat} {s : State} (hown : 1 ≤ src → src ≠ ownNo s) : takeWithdraw src slot s =
    if 1 ≤ src ∧ src ≤ 30 ∧ inShow s = true ∧ slot = showSlot s then withoutMember src s else s := by
  have hcond : (isStation src = true ∧ src ≠ ownNo s ∧ slot = showSlot s)
      ↔ (1 ≤ src ∧ src ≤ 30) ∧ slot = showSlot s := by
    simp only [isStation, decide_eq_true_eq]
    exact ⟨fun ⟨h, _, hslot⟩ => ⟨h, hslot⟩, fun ⟨h, hslot⟩ => ⟨h, hown h.1, hslot⟩⟩
  rw [takeWithdraw, if_congr hcond rfl rfl, removeMember_eq]
  by_cases h : (1 ≤ src ∧ src ≤ 30) ∧ slot = showSlot s
  · obtain ⟨⟨h1, h30⟩, hslot⟩ := h
    simp only [h1, h30, hslot, and_self, and_true, true_and, if_true]
  · rw [if_neg h, if_neg fun hc => h ⟨⟨hc.1, hc.2.1⟩, hc.2.2.2⟩]

theorem withoutMember_other {n : Nat} {s : State} (h : ∀ r, s.she.showRec = some r → Bits.mem r.members n = false) :
    withoutMember n s = s := by
  unfold withoutMember
  cases hr : s.she.showRec with
  | none => rfl
  | some r => simp only [h r hr, Bool.false_eq_true, if_false]

/-- R35: a member taken out where no gate in phase READY stands. -/
theorem withoutMember_noGate {n : Nat} {r : ShowRec} {s : State} (hr : s.she.showRec = some r)
    (hmem : Bits.mem r.members n = true) (hgate : ∀ g, s.gtu.gate = some g → g.phase ≠ .ready) : withoutMember n s =
      { s with she := { s.she with showRec := some { r with members := Bits.erase r.members n } } } := by
  unfold withoutMember
  cases hg : s.gtu.gate with
  | none => simp only [hr, hmem, if_true]
  | some g => simp only [hr, hmem, if_true, ne_eq, hgate g hg, not_false_eq_true]

/-- R35, R47: a member taken out at a gate in phase READY. -/
theorem withoutMember_ready {n : Nat} {r : ShowRec} {g : GateRec} {s : State} (hr : s.she.showRec = some r)
    (hmem : Bits.mem r.members n = true) (hg : s.gtu.gate = some g) (hphase : g.phase = .ready) : withoutMember n s =
      let m := Bits.erase r.members n
      let u := { s with she := { s.she with showRec := some { r with members := m } } }
      if Bits.subset m g.readySet then
        { (match g.goFrame with
          | some id => removeFrame id u
          | none => u) with gtu := { s.gtu with gate := some (g.released s.now) } }
      else { u with gtu := { s.gtu with gate := some { g with
        timer := g.timer.map fun _ => g.readyMoment + s.gtu.limit * 1000000
          + (gateRank (ownNo s) g.readySet m - 1) * 100000 } } } := by
  unfold withoutMember
  simp only [hr, hmem, hg, hphase, if_true, ne_eq, not_true_eq_false, if_false] <;> rfl

/-- Settles O32. -/
theorem withdrawTakesOutTheMember : Obligations.WithdrawTakesOutTheMember := by
  refine ⟨?_, fun t f slot why s hlive hrest htx hcurrent hcontent htime => ?_⟩
  · intro t src p slot s hh hparse h taken
    have hown : 1 ≤ src.toNat → src.toNat ≠ ownNo h := hears_not_own (s := s) hh
    have hexec := exec_withdraw_heard hh hparse
    change exec (.withdraw t src p) s = .next (takeWithdraw src.toNat slot h) at hexec
    rw [takeWithdraw_eq hown] at hexec
    refine ⟨fun hnot => ?_, ?_⟩
    · rw [hexec]
      split
      · next hcond =>
        obtain ⟨h1, h30, hin, hslot⟩ := hcond
        rw [withoutMember_other]
        intro r hr
        have hr' : s.she.showRec = some r := hr
        have hsame : r.slot = slot := by rw [hslot, showSlot, hr]; rfl
        exact Bool.eq_false_iff.mpr fun hmem => hnot ⟨h1, h30, hin, r, hr', hsame, hmem⟩
      · rfl
    · intro r m htaken hr hm u
      obtain ⟨h1, h30, hin, r', hr', hslot, hmem⟩ := htaken
      obtain rfl : r' = r := Option.some.inj (hr'.symm.trans hr)
      have hsame : slot = showSlot h := by
        have hshow : showSlot h = r'.slot := by rw [showSlot, show h.she.showRec = some r' from hr]; rfl
        rw [hshow, hslot]
      rw [if_pos ⟨h1, h30, hin, hsame⟩] at hexec
      subst hm
      by_cases hgate : ∃ g, s.gtu.gate = some g ∧ g.phase = .ready
      · obtain ⟨g, hg, hphase⟩ := hgate
        rw [withoutMember_ready (s := h) hr hmem hg hphase] at hexec
        exact .inr ⟨g, hg, hphase, hexec⟩
      · have hnone : ∀ g, s.gtu.gate = some g → g.phase ≠ .ready := fun g hg hp => hgate ⟨g, hg, hp⟩
        rw [withoutMember_noGate (s := h) hr hmem hnone] at hexec
        exact .inl ⟨fun g => not_and_or.mp fun hc => hnone g hc.1 hc.2, hexec⟩
  · have hchars : frameChars f.content = 7 := by
      rw [hcontent]
      rfl
    have hread : readBack f (sentAt t f s) = sentAt t f s := by
      rw [readBack, hcontent]
    rw [exec_frameSent hlive htx hcurrent (by rw [hchars]; exact htime), hread, settleZones_rest (by exact hrest)]
    rfl

/-! ## Readbacks (R22, R24, R30, R43, R48, R121, R128) -/

/-- The gate record set before the release's own frame is removed, or after: the same. -/
theorem removeFrame_withGtu (id : Nat) (s : State) (x : Gtu) :
    removeFrame id { s with gtu := x } = { removeFrame id s with gtu := x } := by
  have hsame : inTransmission { s with gtu := x } id = inTransmission s id := rfl
  simp only [removeFrame, hsame]
  split <;> rfl

theorem checkRelease_ready {g : GateRec} {s : State} (hg : s.gtu.gate = some g) (hphase : g.phase = .ready) :
    checkRelease s = if Bits.subset (participants s) g.readySet then releaseGate g s else s := by
  simp only [checkRelease, hg, hphase, true_and, allReady]

/-- R43, R45, R47: the own READY read back: the own number joins the ready set, and the gate is released or its
deadline worked out. -/
theorem readyReadBack_eq {g : GateRec} {r : ShowRec} {id : Nat} {s : State} (hg : s.gtu.gate = some g)
    (hr : s.she.showRec = some r) (hphase : g.phase = .readyQueued) (hframe : g.readyFrame = some id) :
    readyReadBack id s =
      let ready := Bits.insert g.readySet (ownNo s)
      if Bits.subset r.members ready then
        { (match g.goFrame with
          | some id => removeFrame id s
          | none => s) with gtu := { s.gtu with gate := some ({ g with readyMoment := s.now }.released s.now) } }
      else { s with gtu := { s.gtu with gate := some { g with
        phase := .ready, readySet := ready, readyMoment := s.now, readyFrame := none
        timer := some (s.now + s.gtu.limit * 1000000 + (gateRank (ownNo s) ready r.members - 1) * 100000) } } } := by
  have hmembers : participants s = r.members := by rw [participants, hr]; rfl
  have hread : readyReadBack id s = checkRelease { s with gtu := { s.gtu with gate := some { g with
      phase := .ready, readySet := Bits.insert g.readySet (ownNo s), readyMoment := s.now, readyFrame := none
      timer := some (s.now + s.gtu.limit * 1000000
        + (gateRank (ownNo s) (Bits.insert g.readySet (ownNo s)) r.members - 1) * 100000) } } } := by
    simp only [readyReadBack, hg, hphase, hframe, and_self, if_true, hmembers]
    rfl
  rw [hread, checkRelease_ready rfl rfl]
  change (if Bits.subset (participants s) _ = true then _ else _) = _
  rw [hmembers]
  refine if_congr Iff.rfl ?_ rfl
  rw [releaseGate_eq]
  cases hgo : g.goFrame with
  | none => simp only [GateRec.released]
  | some k => simp only [GateRec.released, removeFrame_withGtu]

/-- R48, R49: a GO taken by the READY station it names: the set shrinks, and the gate is released. -/
theorem takeGo_releaseGate {g : GateRec} {r : ShowRec} {src : Nat} {x : GoIn} {s : State} (hg : s.gtu.gate = some g)
    (hr : s.she.showRec = some r) (htaken : goTaken s g src x = true) (hphase : g.phase = .ready)
    (hnamed : Bits.mem x.members (ownNo s) = true) : takeGo src x s =
      releaseGate g (((List.range 32).filter fun n =>
        Bits.mem r.members n && !Bits.mem x.members n && n != ownNo s).foldl
          (fun v n => raiseFault .gateExcludedPeer n v)
          { s with she := { s.she with showRec := some { r with members := r.members &&& x.members } } }) := by
  have hmembers : participants s = r.members := by rw [participants, hr]; rfl
  simp only [takeGo, hg, htaken, if_true, hmembers, hphase, hnamed, and_self]
  rw [excludePeers_eq x.members hr]

/-- What the release leaves, by the terms of Safety. -/
theorem takeGo_releases {g : GateRec} {r : ShowRec} {src : Nat} {x : GoIn} {s : State} (hg : s.gtu.gate = some g)
    (hr : s.she.showRec = some r) (htaken : goTaken s g src x = true) (hphase : g.phase = .ready)
    (hnamed : Bits.mem x.members (ownNo s) = true) : takeGo src x s =
      let v := ((List.range 32).filter fun n => Bits.mem r.members n && !Bits.mem x.members n && n != ownNo s).foldl
        (fun v n => raiseFault .gateExcludedPeer n v)
        { s with she := { s.she with showRec := some { r with members := r.members &&& x.members } } }
      { (match g.goFrame with
        | some id => removeFrame id v
        | none => v) with gtu := { s.gtu with gate := some (g.released s.now) } } := by
  obtain ⟨-, hgtu, hnow⟩ := excluded_keeps ((List.range 32).filter fun n =>
    Bits.mem r.members n && !Bits.mem x.members n && n != ownNo s)
    { s with she := { s.she with showRec := some { r with members := r.members &&& x.members } } }
  rw [takeGo_releaseGate hg hr htaken hphase hnamed, releaseGate_eq, hgtu, hnow] <;> rfl

theorem takeGo_ignored {g : GateRec} {src : Nat} {x : GoIn} {s : State} (hg : s.gtu.gate = some g)
    (hnot : ¬goTaken s g src x = true) : takeGo src x s = s := by
  simp only [takeGo, hg, hnot, if_false, Bool.false_eq_true]

theorem goTaken_iff {g : GateRec} {r : ShowRec} {src slot n : Nat} {m : Set32} {s : State}
    (hr : s.she.showRec = some r) : goTaken s g src ⟨slot, n, m⟩ = true ↔
      g.phase ≠ .released ∧ slot = r.slot ∧ g.number = some n ∧ Bits.mem r.members src = true := by
  simp [goTaken, showSlot, participants, hr, and_assoc]

/-- R121: the own CLAIM read back starts the window of the zones still PENDING for it. -/
theorem claimReadBack_window {id z : Nat} {zones : ZoneSet} {w : Option Nat} {k : Option Nat} {s : State}
    (hz : zoneAt s z = .pending (ownNo s) id w k) : claimReadBack id zones s = { s with zon := { s.zon with
      view := s.zon.view.map fun e => match e with
        | .pending st g w k => if st = ownNo s ∧ g = id then .pending st g (some (s.now + 30000)) k else .pending st g w k
        | _ => e } } := by
  have hmem : (.pending (ownNo s) id w k : ZoneEntry) ∈ s.zon.view := by
    by_cases hlen : z < s.zon.view.length
    · rw [← hz, ← zoneAt_getElem s z hlen]
      exact List.getElem_mem hlen
    · rw [zoneAt, List.getD_eq_default _ _ (Nat.le_of_not_lt hlen)] at hz
      cases hz
  have hany : (s.zon.view.any fun e => groupOf e == some (ownNo s, id)) = true :=
    List.any_eq_true.mpr ⟨_, hmem, by simp [groupOf]⟩
  rw [claimReadBack, if_pos hany]
  exact mapView_eq_map (fun _ e => by cases e <;> rfl) s

/-- An own frame sent whose readback asks for nothing of the zones. -/
theorem exec_frameSent_rest {t : Nat} {f : TxFrame} {s v : State} (hlive : Live t s) (hrest : ZonesAtRest s)
    (htx : s.bus.tx = .sending) (hcurrent : currentFrame s = some f)
    (htime : s.bus.attemptAt + frameChars f.content * (if s.bus.fast then 44 else 176) ≤ t)
    (hread : readBack f (sentAt t f s) = v) (hzon : v.zon.trialDue = s.zon.trialDue ∧ v.zon.granted = s.zon.granted) :
    exec (.frameSent t) s = .next v := by
  have hv : ZonesAtRest v := by rw [ZonesAtRest, hzon.1, hzon.2]; exact hrest
  rw [exec_frameSent hlive htx hcurrent htime, hread, settleZones_rest hv]

/-- R22: the own CALL read back in CALLING begins the gather window. -/
theorem callReadBack_window {id : Nat} {g : Gather} {s : State} (hengine : s.she.engine = .calling)
    (hgather : s.she.gather = some g) (hframe : g.callFrame = id) (hwindow : g.window = none) (hagree : g.agree = none) :
    callReadBack id s = { s with she := { s.she with gather := some { g with window := some (s.now + 400000) } } } := by
  simp only [callReadBack, hgather]
  exact if_pos ⟨hframe, hengine, hwindow, hagree⟩

/-- R24: the own MENU read back in ANSWERED begins the AGREE wait. -/
theorem menuReadBack_wait {id : Nat} {a : AnswerRec} {s : State} (hengine : s.she.engine = .answered)
    (hanswer : s.she.answer = some a) (hframe : a.menuFrame = id) :
    menuReadBack id s = { s with she := { s.she with answer := some { a with wait := some (s.now + 1000000) } } } := by
  simp only [menuReadBack, hanswer]
  exact if_pos ⟨hframe, hengine⟩

/-- R30: the own AGREE read back at a station whose negotiation it ends. -/
theorem agreeReadBack_eq {g : Gather} {k : PendingSlot} {x : AgreeRec} {s : State} (hengine : s.she.engine = .calling)
    (hgather : s.she.gather = some g) (hpend : s.she.pend = some k) (hagree : g.agree = some x) :
    agreeReadBack x.frame s =
      if Bits.mem (menuOf s) x.prog then enterArming ⟨g.slot, k.day, x.prog, x.level, x.hour, x.members, false⟩ s
      else menuChanged g.slot k.day x.prog s := by
  simp only [agreeReadBack, hgather, hpend, hagree, hengine, and_self, if_true, agreeOrChange]

/-- Settles O28: each readback is the owner's action on `sentAt`, and only a RELEASE gives the zones a trial. -/
theorem readbacksStartTimersAndTheWaitEnds : Obligations.ReadbacksStartTimersAndTheWaitEnds := by
  refine ⟨?_, fun t e a s hlive hengine hanswer hwait hdue => ?_⟩
  · intro t f s hlive hrest htx hcurrent htime u
    have hsent := fun v => exec_frameSent_rest (v := v) hlive hrest htx hcurrent htime
    have hu : sentAt t f s = u := rfl
    have hshe : u.she = s.she := rfl
    have hgtu : u.gtu = s.gtu := rfl
    have hown : ownNo u = ownNo s := rfl
    refine ⟨?_, ?_, ?_, ?_, ?_, ?_, ?_⟩
    · intro a b c d g hf hengine hgather hframe hwindow hagree
      refine hsent _ ?_ ⟨rfl, rfl⟩
      simp only [readBack, hf, hu]
      exact callReadBack_window (s := u) hengine hgather hframe hwindow hagree
    · intro a b c g hf hengine hanswer hframe
      refine hsent _ ?_ ⟨rfl, rfl⟩
      simp only [readBack, hf, hu]
      exact menuReadBack_wait (s := u) hengine hanswer hframe
    · intro a b c d m g k x hf hengine hgather hpend hagree hframe
      have hread : readBack f (sentAt t f s) =
          if Bits.mem (menuOf u) x.prog then enterArming ⟨g.slot, k.day, x.prog, x.level, x.hour, x.members, false⟩ u
          else menuChanged g.slot k.day x.prog u := by
        simp only [readBack, hf, hu]
        rw [← hframe]
        exact agreeReadBack_eq (s := u) hengine hgather hpend hagree
      refine ⟨fun hplays hprog => ?_, fun hcannot hroom => ?_⟩
      · have hout : inShow u = false := by simp [inShow, hshe, hengine]
        refine hsent _ ?_ ⟨rfl, rfl⟩
        rw [hread, if_pos hplays, enterArming_eq hout hprog]
        rfl
      · have hroom' : u.bus.queue.length < 8 := (List.length_filter_le _ _).trans_lt hroom
        intro v
        refine hsent _ ?_ (by simp [idleAt, v, u])
        rw [hread, if_neg (by simp [hcannot]), menuChanged_eq hroom']
    · intro slot n g r hf hg hr hphase hframe
      refine hsent _ ?_ ?_
      · rw [readBack, hf, hu]
        exact readyReadBack_eq (s := u) hg hr hphase hframe
      · split
        · split <;> simp [removeFrame_zon, u]
        · exact ⟨rfl, rfl⟩
    · intro slot n m g r hf hg hr taken v
      have hread : readBack f (sentAt t f s) = takeGo (ownNo s) ⟨slot, n, m⟩ u := by
        simp only [readBack, hf, hu, hown]
      have htaken : goTaken u g (ownNo s) ⟨slot, n, m⟩ = true ↔ taken := goTaken_iff (s := u) hr
      refine ⟨fun hnot => ?_, fun htake hphase hnamed => ?_⟩
      · exact hsent _ (hread.trans (takeGo_ignored (s := u) hg (htaken.not.mpr hnot))) ⟨rfl, rfl⟩
      · refine hsent _ (hread.trans (takeGo_releases (s := u) hg hr (htaken.mpr htake) hphase hnamed)) ?_
        have hv : v.zon = s.zon := (excluded_keeps _ _).1
        split <;> simp [removeFrame_zon, hv]
    · intro zones z w k hf hz
      refine hsent _ ?_ ⟨rfl, rfl⟩
      simp only [readBack, hf, hu]
      exact claimReadBack_window (s := u) hz
    · intro zones hf
      rw [exec_frameSent hlive htx hcurrent htime]
      simp only [readBack, hf, hu]
      rfl
  · have hexec : exec (.agreeWaitExpiry t) s = .next (agreeWaitOut { s with now := t }) := event_live hlive _
    rw [hexec]
    simp only [agreeWaitOut, hanswer, hengine, hwait, expired, hdue, agreeWaitExpires, writeLastSlot_dealt]
    rfl

end Sys2Proof.Machine

/-! SUPPORT. Proofs about gates (chapter 3). -/

namespace Sys2Proof.Machine

/-! ## The lead-in and the gate timer (R40, R48) -/

theorem firstCueHeld_of {s : State} (h : s.csq.builtin = true ∨ s.csq.play.pos = none
    ∨ (s.csq.slotA.state = .ready ∧ s.csq.slotA.item = 1) ∨ 1 < min s.csq.play.item s.csq.lead.item) :
    firstCueHeld s = true := by
  unfold firstCueHeld
  rcases h with hbuiltin | hended | ⟨hready, hitem⟩ | hpassed
  · simp [hbuiltin]
  · simp [hended]
  · have hslot : slotOf s 1 = some s.csq.slotA := by simp [slotOf, hready, hitem]
    cases s.csq.play.pos <;> simp [itemHeld, hslot, hready]
  · have hpast : itemPassed s 1 = true := decide_eq_true hpassed
    cases s.csq.play.pos <;> simp [hpast]

theorem gateReady_zero {g : GateRec} {s : State} (hnumber : g.number = some 0) (hphase : g.phase = .standing)
    (hlead : g.leadIn = none) : gateReady s g = (s.csq.parts.isSome && firstCueHeld s) := by
  simp [gateReady, hnumber, hphase, hlead]

/-- Settles O34. -/
theorem gateTimersMakeReadyAndGo : Obligations.GateTimersMakeReadyAndGo := by
  refine ⟨fun t e g s hlive hg hnumber hphase hlead hdue hroom => ?_,
    fun t e g r s hlive hg hr hphase htimer hdue hroom => ?_⟩
  · let u : State := { s with now := t, gtu := { s.gtu with gate := some { g with leadIn := none } } }
    have hexec : exec (.leadInExpiry t) s = .next (gateCheck u) := by
      have hevent : exec (.leadInExpiry t) s = .next (leadInOut { s with now := t }) := event_live hlive _
      have hexpired : expired g.leadIn t = true := by rw [hlead]; exact decide_eq_true hdue
      rw [hevent]
      simp only [leadInOut, hg, hexpired, if_true]
      rw [modGate_some (s := { s with now := t }) hg]
    have hready : gateReady u { g with leadIn := none } = (s.csq.parts.isSome && firstCueHeld u) :=
      gateReady_zero hnumber hphase rfl
    refine ⟨fun hparts hheld => ?_, fun hparts => ?_⟩
    · have hboth : (s.csq.parts.isSome && firstCueHeld u) = true := by
        rw [firstCueHeld_of (s := u) hheld, Bool.and_true, Option.isSome_iff_ne_none]
        exact hparts
      rw [hexec, gateCheck_ready (s := u) rfl (hready.trans hboth) hroom]
      simp only [readyAt, hnumber]
      rfl
    · rw [hexec, gateCheck_not (s := u) rfl (by simp [hready, hparts])]
  · have hexec : exec (.gateTimerExpiry t) s = .next (gateTimerOut { s with now := t }) := event_live hlive _
    have hexpired : expired g.timer t = true := by rw [htimer]; exact decide_eq_true hdue
    rw [hexec]
    have hslot : showSlot { s with now := t } = r.slot := by rw [showSlot, hr]; rfl
    have hmembers : participants { s with now := t } = r.members := by rw [participants, hr]; rfl
    simp only [gateTimerOut, hg, hphase, hexpired, and_self, if_true, gateTimerExpires, hslot, hmembers]
    rw [modGate_some (s := { s with now := t }) hg, queueFrame_room _ _ (by exact hroom), hphase]
    rfl

/-! ## READY heard (R44, R45, R47) -/

theorem exec_ready_heard {t slot n : Nat} {src : Byte} {p : List Byte} {s : State} (hh : Hears t src s)
    (hparse : parseReady p = some (slot, n)) :
    exec (.ready t src p) s = .next (takeReady src.toNat slot n (heardAt t src s)) := by
  calc exec (.ready t src p) s
      = event t (hear src false (withLayout (parseReady p) fun x => takeReady src.toNat x.1 x.2)) s := rfl
    _ = _ := by rw [event_heard hh, hparse, withLayout]

/-- Settles O35. -/
theorem heardReadyJoinsTheReadySet : Obligations.HeardReadyJoinsTheReadySet := by
  intro t src p slot n g r s hh hparse hg hr h ready
  have hexec := exec_ready_heard hh hparse
  change exec (.ready t src p) s = .next (takeReady src.toNat slot n h) at hexec
  have hgtu : h.gtu = s.gtu := rfl
  have hslot : showSlot h = r.slot := by rw [showSlot, show h.she.showRec = some r from hr]; rfl
  have hmembers : participants h = r.members := by rw [participants, show h.she.showRec = some r from hr]; rfl
  have hown : ownNo h = ownNo s := rfl
  have hnow : h.now = t := rfl
  clear_value h
  have hgh : h.gtu.gate = some g := hgtu ▸ hg
  simp only [takeReady, hgh, hslot, hmembers] at hexec
  refine ⟨fun hother => ?_, fun hsame hmem hnumber => ?_, fun hsame hmem hnumber hnew => ?_⟩
  · rw [hexec, if_neg]
    rintro ⟨hsame, hmem⟩
    rcases hother with hdiff | hout
    · exact hdiff hsame
    · simp [hmem] at hout
  · rw [hexec, if_pos ⟨hsame, hmem⟩, if_neg hnumber]
    rw [← hgtu]
    rfl
  · let u : State := { h with gtu := { s.gtu with gate := some { g with readySet := ready } } }
    have hjoined : exec (.ready t src p) s = .next (checkRelease (recomputeGate u)) := by
      rw [hexec, if_pos ⟨hsame, hmem⟩, if_pos hnumber, if_neg (by simp [hnew]), modGate_some (s := h) hgh, hgtu]
    rw [hjoined]
    split
    · next hphase =>
      rw [recheck_other u (by rintro k hk; cases hk; exact hphase)]
    · next hphase =>
      have hready : g.phase = .ready := by simpa using hphase
      rw [recheck_ready u { g with readySet := ready } rfl hready]
      refine congrArg Host.Outcome.next ?_
      have hdeadline : gateDeadline u { g with readySet := ready } (participants u) = g.readyMoment
          + s.gtu.limit * 1000000 + (gateRank (ownNo s) ready r.members - 1) * 100000 := by
        rw [← hmembers, ← hown]
        rfl
      rw [hdeadline, show u.now = t from hnow]
      change (if Bits.subset (participants h) ready then _ else _) = _
      rw [hmembers]
      refine if_congr Iff.rfl ?_ rfl
      cases hgo : g.goFrame with
      | none => rfl
      | some id =>
        have hremove : removeFrame id u = { removeFrame id h with gtu := u.gtu } := removeFrame_withGtu id h _
        simp only [hremove] <;> rfl

/-! ## GO heard (R49, R50) -/

theorem exec_go_heard {t : Nat} {src : Byte} {p : List Byte} {x : GoIn} {s : State} (hh : Hears t src s)
    (hparse : parseGo p = some x) :
    exec (.go t src p) s = .next (settleZones trialFuel (takeGo src.toNat x (heardAt t src s))) := by
  calc exec (.go t src p) s
      = zoneEvent t (hear src false (withLayout (parseGo p) (takeGo src.toNat))) s := rfl
    _ = _ := by rw [zoneEvent_heard hh, hparse, withLayout]

/-- R50: a GO taken that leaves this station out, or finds it not READY. -/
theorem takeGo_excludes {g : GateRec} {r : ShowRec} {src : Nat} {x : GoIn} {s : State} (hg : s.gtu.gate = some g)
    (hr : s.she.showRec = some r) (htaken : goTaken s g src x = true)
    (hnot : g.phase ≠ .ready ∨ Bits.mem x.members (ownNo s) = false) : takeGo src x s =
      withdrawShow .excluded (((List.range 32).filter fun n =>
        Bits.mem r.members n && !Bits.mem x.members n && n != ownNo s).foldl
          (fun v n => raiseFault .gateExcludedPeer n v)
          { s with she := { s.she with showRec := some { r with members := r.members &&& x.members } } }) := by
  have hmembers : participants s = r.members := by rw [participants, hr]; rfl
  have hout : ¬(g.phase = .ready ∧ Bits.mem x.members (ownNo s) = true) := by
    rintro ⟨hphase, hnamed⟩
    rcases hnot with h | h
    · exact h hphase
    · simp [h] at hnamed
  simp only [takeGo, hg, htaken, if_true, hmembers, if_neg hout]
  rw [excludePeers_eq x.members hr]

/-- What the records of exclusions leave of the engine, the station and the figures. -/
theorem excluded_leaves : ∀ (l : List Nat) (v : State),
    let y := l.foldl (fun v n => raiseFault .gateExcludedPeer n v) v
    y.she = v.she ∧ y.iml = v.iml ∧ y.fig = v.fig
  | [], _ => ⟨rfl, rfl, rfl⟩
  | a :: l, v => by simpa using excluded_leaves l (raiseFault .gateExcludedPeer a v)

/-- What the cues, the gate record and the lamps leave of the rest as a show is over for the station. -/
theorem showOver_leaves (v : State) :
    (lampsOut (clearGate (cuesWithdraw v))).she = v.she ∧ (lampsOut (clearGate (cuesWithdraw v))).fig = v.fig
      ∧ (lampsOut (clearGate (cuesWithdraw v))).zon = v.zon
      ∧ (lampsOut (clearGate (cuesWithdraw v))).gtu.gate = none := ⟨rfl, rfl, rfl, rfl⟩

/-- R34: a withdrawal from a show not yet in SETTLING, up to what the figures do. -/
theorem withdrawShow_figures {why : Reason} {s : State} (hengine : s.she.engine ∈ [Engine.arming, .gateWait, .running])
    (hsends : Sends s) (hroom : s.bus.queue.length < 6) :
    ∃ b, withdrawShow why s = lampsOut (clearGate (cuesWithdraw (figsWithdraw b))) ∧ b.she.engine = .settling
      ∧ b.iml = s.iml ∧ b.fig = s.fig ∧ b.bus.queue.length < 8 := by
  have hrunning : withdrawShow why s = withdrawRunning why s := by
    simp only [List.mem_cons, List.not_mem_nil, or_false] at hengine
    unfold withdrawShow
    rcases hengine with h | h | h <;> simp only [h]
  let left := raiseFault .withdrawn (progNo s) (leaveShow s)
  have hleft : left.bus.queue.length < 7 := by
    have hlen : left.bus.queue.length ≤ s.bus.queue.length + 1 := raiseFault_queue_length ..
    omega
  have himl : left.iml = s.iml := raiseFault_iml ..
  have hfig : left.fig = s.fig := raiseFault_fig ..
  have hunmuted : isMuted s = false := sends_not_muted hsends
  have hsend : sendWithdraw why left = { left with bus := left.bus.queued (.withdraw (showSlot left) why) } := by
    have hunmutedL : ¬isMuted left = true := by
      rw [isMuted, himl, ← isMuted, hunmuted]
      exact Bool.false_ne_true
    rw [sendWithdraw, if_neg hunmutedL, queueFrame_room _ _ (by omega)]
    rfl
  have hlength : (left.bus.queued (.withdraw (showSlot left) why)).queue.length < 8 := by
    simp only [Bus.queued, List.length_append, List.length_singleton]
    omega
  refine ⟨bellsWithdraw (setEngine .settling { left with bus := left.bus.queued (.withdraw (showSlot left) why) }), ?_,
    rfl, himl, hfig, hlength⟩
  rw [hrunning, withdrawRunning, hsend, figsLeave, if_neg]
  simp only [isMuted, bellsWithdraw, dropDampers, setEngine, State.modBel, State.modShe, himl]
  simpa [isMuted] using hunmuted

/-- Settles O36: `takeGo` by whether the GO is taken, releases the gate or excludes this station; the withdrawal of a
station with one figure is that of `figsWithdraw_one`. -/
theorem goReleasesTheGate : Obligations.GoReleasesTheGate := by
  intro t src p x r s hh hrest hparse hr h
  have hexec := exec_go_heard hh hparse
  change exec (.go t src p) s = .next (settleZones trialFuel (takeGo src.toNat x h)) at hexec
  have hshe : h.she = s.she := rfl
  have hgtu : h.gtu = s.gtu := rfl
  have himl : h.iml = s.iml := rfl
  have hfig : h.fig = s.fig := rfl
  have hzon : h.zon = s.zon := rfl
  have hnow : h.now = t := rfl
  have hchr : h.chr = s.chr := rfl
  have hown : ownNo h = ownNo s := rfl
  have hqueue : h.bus.queue = s.bus.queue := rfl
  clear_value h
  have hrh : h.she.showRec = some r := hshe ▸ hr
  have hrestH : ZonesAtRest h := by rw [ZonesAtRest, hzon]; exact hrest
  refine ⟨fun g hg => ?_, fun hgate hsettling hslot hmem hout hw hsends hroom => ?_⟩
  · intro taken dropped u
    have hgh : h.gtu.gate = some g := hgtu ▸ hg
    have htaken : goTaken h g src.toNat x = true ↔ taken := goTaken_iff hrh
    obtain ⟨hzonU, hgtuU, hnowU⟩ := excluded_keeps dropped
      { h with she := { s.she with showRec := some { r with members := r.members &&& x.members } } }
    obtain ⟨hsheU, himlU, hfigU⟩ := excluded_leaves dropped
      { h with she := { s.she with showRec := some { r with members := r.members &&& x.members } } }
    refine ⟨fun hnot => ?_, fun htake hphase hnamed => ?_, fun htake hexcluded hengine hsends => ?_⟩
    · rw [hexec, takeGo_ignored hgh (htaken.not.mpr hnot), settleZones_rest hrestH]
    · have hgo : takeGo src.toNat x h = { (match g.goFrame with
          | some id => removeFrame id u
          | none => u) with gtu := { s.gtu with gate := some (g.released t) } } := by
        have hrelease : takeGo src.toNat x h = releaseGate g u := by
          rw [takeGo_releaseGate hgh hrh (htaken.mpr htake) hphase (hown ▸ hnamed), hown, hshe]
        rw [hrelease, releaseGate_eq, show u.gtu = s.gtu from hgtuU.trans hgtu, show u.now = t from hnowU.trans hnow]
          <;> rfl
      rw [hexec, hgo]
      refine congrArg Host.Outcome.next (settleZones_rest ?_ _)
      have hzonV : u.zon = h.zon := hzonU
      split <;> simpa [ZonesAtRest, hzonV, hzon] using hrest
    · have hgo : takeGo src.toNat x h = withdrawShow .excluded u := by
        rw [takeGo_excludes hgh hrh (htaken.mpr htake) (hown ▸ hexcluded), hown, hshe]
      have hengineU : u.she.engine ∈ [Engine.arming, .gateWait, .running] := hsheU ▸ hengine
      have hsendsU : Sends u := by
        rw [Sends, show u.iml = s.iml from himlU.trans himl]
        exact hsends
      have hfigS : u.fig = s.fig := hfigU.trans hfig
      have hownU : ownNo u = ownNo s := by rw [ownNo, show u.iml = s.iml from himlU.trans himl, ownNo]
      rw [hexec, hgo]
      refine ⟨fun hnone hroom => ?_, fun f c hf hlen hc hothers hroom hstate => ?_⟩
      · have hnoneU : ∀ f, figRec u f = none := by simpa only [figRec, hfigS] using hnone
        rw [withdrawShow_eq .excluded u hengineU hsendsU hnoneU hroom, settleZones_rest]
        refine withdrawnFrom_atRest .excluded ?_
        rw [ZonesAtRest, show u.zon = s.zon from hzonU.trans hzon]
        exact hrest
      · obtain ⟨b, hb, hbEngine, hbIml, hbFig, hbRoom⟩ := withdrawShow_figures (why := .excluded) hengineU hsendsU hroom
        have hbF : b.fig = s.fig := hbFig.trans hfigS
        have hrun : figRun b f = figRun s f := by rw [figRun, hbF, figRun]
        have hrec : ∀ k, figRec b k = figRec s k := fun k => by rw [figRec, hbF, figRec]
        have hbOwn : ownNo b = ownNo s := by rw [ownNo, hbIml, ← ownNo, hownU]
        have hone := figsWithdraw_one (s := b) hf (hbF ▸ hlen) ((hrec f).trans hc)
          (fun k hk hne => (hrec k).trans (hothers k hk hne)) (hrun ▸ hstate) hbRoom
        rw [hrun, hbOwn] at hone
        obtain ⟨hsheW, -, -, hduty, hmove, hpos, hwhere⟩ := hone
        obtain ⟨hsheO, hfigO, hzonO, hgateO⟩ := showOver_leaves (figsWithdraw b)
        refine ⟨_, by rw [hb], ?_, hgateO, ?_⟩
        · rw [hsheO, hsheW, hbEngine]
        · have hrunO : figRun (lampsOut (clearGate (cuesWithdraw (figsWithdraw b)))) f = figRun (figsWithdraw b) f := by
            rw [figRun, hfigO, figRun]
          simp only [hrunO, hzonO, zoneAt]
          exact ⟨hduty, hmove, hpos, hwhere⟩
  · have hgo : takeGo src.toNat x h = withdrawShow .excluded h := by
      have hslotH : showSlot h = x.slot := by rw [showSlot, hrh, hslot]; rfl
      have hmembers : participants h = r.members := by rw [participants, hrh]; rfl
      have hcond : h.she.engine = .settling ∧ x.slot = showSlot h ∧ Bits.mem (participants h) src.toNat = true
          ∧ Bits.mem x.members (ownNo h) = false := by
        rw [hshe, hslotH, hmembers, hown]
        exact ⟨hsettling, rfl, hmem, hout⟩
      simp only [takeGo, show h.gtu.gate = none from hgtu ▸ hgate]
      exact if_pos hcond
    have hsendsH : Sends h := by rw [Sends, himl]; exact hsends
    rw [hexec, hgo, withdrawShow_settling (hshe ▸ hsettling) hrh hw hsendsH (hqueue ▸ hroom), settleZones_rest (by exact hrestH),
      hshe, hchr, hown]

/-! ## The settle timer (R46, R67) -/

/-- Settles O37. -/
theorem settleTimerResumesTheBeatClock : Obligations.SettleTimerResumesTheBeatClock := by
  intro t e g s hlive hrest hg hphase hsettle hdue u
  have hexpires : settleOut { s with now := t } = playWaiting 9 u := by
    have hexpired : expired g.settle t = true := by rw [hsettle]; exact decide_eq_true hdue
    simp only [settleOut, hg, hphase, hexpired, and_self, if_true]
    exact settleExpires_eq t _ g hg rfl
  have hexec : exec (.settleTimerExpiry t) s = .next (settleZones trialFuel (playWaiting 9 u)) := by
    calc exec (.settleTimerExpiry t) s
        = event t (fun s => settleZones trialFuel (settleOut s)) s := rfl
      _ = _ := by rw [event_live hlive, hexpires]
  refine ⟨hexec, fun hplay hlead hslotA hslotB hwake hstrobe hlasts => ?_⟩
  let v : State := { u with csq := { u.csq with
    play := { s.csq.play with waiting := none }, lead := { s.csq.lead with waiting := none } } }
  have hmark : giveMark v = v := by
    have hmode : strobeMode v = none := by
      simp only [strobeMode, Option.map_eq_none_iff, List.find?_eq_none, beq_iff_eq]
      exact hstrobe
    simp [giveMark, markDue, hmode]
  have hwakes : wakeUpsDue v = v := by
    have hnone : firstWake v v.csq.wakeups = none := by rw [show v.csq.wakeups = [] from hwake]; rfl
    simp only [wakeUpsDue, answerWakeUps, hnone, ite_self]
  have hplays : playWaiting 9 u = v := by
    have htakes : takeWaiting (3 * lookFuel u) (leaveSlots (lookFuel u) u) = v :=
      takeWaiting_ended _ _ u rfl hplay hlead hslotA hslotB
    have hover : partOver v = false := hlasts
    rw [playWaiting, htakes, hmark, hwakes]
    simp [hover]
  rw [hexec, hplays, settleZones_rest (by exact hrest)]

end Sys2Proof.Machine

/-! SUPPORT. Proofs about the beat clock's events: marks, strikes, wake-ups and part ends (chapter 4). -/

namespace Sys2Proof.Machine

/-! ## Marks (R72) -/

/-- Settles O43. -/
theorem marksPulseTheStrobe : Obligations.MarksPulseTheStrobe := by
  intro t c s hlive hrunning hstrobe part hmark htime hgate
  let u : State := { s with now := t }
  have hmode : strobeMode u = some c.mode := by rw [strobeMode, show u.chr = s.chr from rfl, hstrobe]; rfl
  have hdue : markDue u = true := by
    have hgate' : (wakeAhead u s.csq.seg.part s.csq.nextMark).gate = false := hgate
    simp only [markDue, hmode, Option.isSome_some, Bool.and_eq_true, decide_eq_true_eq, Bool.not_eq_true']
    exact ⟨⟨⟨⟨hrunning, trivial⟩, hmark⟩, htime⟩, hgate'⟩
  have hexec : exec (.beatMark t) s = .next (giveMark u) := event_live hlive _
  rw [hexec, giveMark, if_pos hdue]
  have hbar : (s.csq.nextMark % (24 * part.beats) == 0) = decide (s.csq.nextMark % (24 * part.beats) = 0)  := by
    rw [Bool.eq_iff_iff, beq_iff_eq, decide_eq_true_eq]
  change Host.Outcome.next ((takeMark (s.csq.nextMark % (24 * part.beats) == 0) u).modCsq _) = _
  rw [takeMark, hmode, hbar]
  generalize decide (s.csq.nextMark % (24 * part.beats) = 0) = bar
  cases c.mode <;> cases bar <;> rfl

/-! ## Strikes and wake-ups (R69, R70, R92) -/

theorem leadDue_cue {p : Pos} {q : Cue} {u : State} (hrunning : u.csq.running = true)
    (hcue : cueView u u.csq.lead = .cue p q) (hgate : (strikeAhead u p q).gate = false)
    (hunread : (strikeAhead u p q).unread = none) (hkind : q.kind = 1 ∨ q.kind = 3) :
    let tau := tauOf (strikeAhead u p q).seg (cueTick (partsOf u) p q)
    leadDue u = if showTime u < tau - 100000 then u else pump (dispatchLead p q tau u) := by
  have hstrike : isStrikeKind q = true := by rcases hkind with h | h <;> simp [isStrikeKind, h]
  have hahead : ((Config.strikeAheadUs : Nat) : Int) = 100000 := rfl
  simp only [leadDue, hrunning, if_true, hcue, hstrike, hgate, hunread, hahead]
  simp only [Bool.false_eq_true, false_or, reduceCtorEq]

theorem wakeTau_of {w : WakeUp} {u : State} (hgate : (wakeAhead u w.part w.tick).gate = false)
    (hunread : (wakeAhead u w.part w.tick).unread = none) :
    let tau := tauOf (wakeAhead u w.part w.tick).seg w.tick
    wakeTau u w = if showTime u < tau - 100000 then none else some tau := by
  simp only [wakeTau, hgate, hunread]
  simp

/-- The last stroke's record is closed by it, another asks for its next wake-up (R92). -/
theorem answerWakeUp_only {w : WakeUp} {r : HourRec} {tau : Int} {u : State} (hwake : u.csq.wakeups = [w])
    (hhours : u.bel.hours = [r]) (hid : r.id = w.record) :
    let stroke := takeStrike r.bell r.vel (realOf u tau)
      { u with csq := { u.csq with wakeups := [] }, bel := { u.bel with hours := [] } }
    answerWakeUp w tau u = if r.remaining ≤ 1 then stroke
      else askWakeUp { r with next := r.next + r.interval, remaining := r.remaining - 1 } stroke := by
  simp [answerWakeUp, takeWakeUp, State.modCsq, State.modBel, hwake, hhours, hid]

theorem answerWakeUps_none {n : Nat} {u : State} (h : u.csq.wakeups = []) : answerWakeUps n u = u := by
  cases n with
  | zero => rfl
  | succ n => simp only [answerWakeUps, h, firstWake]

/-- Settles O41. -/
theorem strikesAreDispatchedAhead : Obligations.StrikesAreDispatchedAhead := by
  refine ⟨fun t s hlive hrunning => ?_, fun r s => ?_⟩
  · intro u
    refine ⟨fun p q hcue hvalid hgate hunread => ?_, fun w r hwake hhours hid hgate hunread => ?_⟩
    · intro tick tau hour first
      have hlead : exec (.strikeDispatch t) s = .next (leadDue u) := event_live hlive _
      have hdue := leadDue_cue (u := u) hrunning hcue hgate hunread
      refine ⟨fun hkind hearly => ?_, fun hkind htime => ?_, fun hkind htime => ?_⟩
      · rw [hlead, hdue hkind]
        exact congrArg Host.Outcome.next (if_pos hearly)
      · rw [hlead, hdue (.inl hkind)]
        refine congrArg Host.Outcome.next ((if_neg (not_lt.mpr htime)).trans (congrArg pump ?_))
        rw [dispatchLead, handStrike, if_neg (by simp [hkind])]
        rfl
      · rw [hlead, hdue (.inr hkind)]
        refine congrArg Host.Outcome.next ((if_neg (not_lt.mpr htime)).trans (congrArg pump ?_))
        have hnext : first.bel.nextHour = s.bel.nextHour := (takeStrike_keeps ..).2
        rw [dispatchLead, handStrike, if_pos hkind, ← hnext]
        rfl
    · intro tau stroke
      have hexec : exec (.wakeUpDue t) s = .next (wakeUpsDue u) := event_live hlive _
      have htau := wakeTau_of (u := u) hgate hunread
      have hanswers : wakeUpsDue u = match wakeTau u w with
          | none => u
          | some tau => answerWakeUps 191 (answerWakeUp w tau u) := by
        rw [wakeUpsDue, if_pos (show u.csq.running = true from hrunning), show wakeFuel = 191 + 1 from rfl, answerWakeUps,
          show u.csq.wakeups = [w] from hwake, firstWake, firstWake]
        cases wakeTau u w <;> rfl
      have hcsq : stroke.csq.wakeups = [] := congrArg Csq.wakeups (takeStrike_keeps ..).1
      refine ⟨fun hearly => ?_, fun htime hlast => ?_, fun htime hmore => ?_⟩
      · rw [hexec, hanswers, htau.trans (if_pos hearly)]
      · have hstroke : answerWakeUp w tau u = stroke :=
          (answerWakeUp_only (u := u) hwake hhours hid).trans (if_pos hlast)
        rw [hexec, hanswers, htau.trans (if_neg (not_lt.mpr htime))]
        exact congrArg Host.Outcome.next ((congrArg (answerWakeUps 191) hstroke).trans (answerWakeUps_none hcsq))
      · have hstroke : answerWakeUp w tau u
            = askWakeUp { r with next := r.next + r.interval, remaining := r.remaining - 1 } stroke :=
          (answerWakeUp_only (u := u) hwake hhours hid).trans (if_neg (not_le.mpr hmore))
        rw [hexec, hanswers, htau.trans (if_neg (not_lt.mpr htime))]
        exact congrArg Host.Outcome.next (congrArg (answerWakeUps 191) hstroke)
  · unfold askWakeUp
    rfl

/-! ## Part ends (R65, R37) -/

theorem lateWakeUps_none {n : Nat} {u : State} (h : ∀ w ∈ u.csq.wakeups, u.csq.seg.part < w.part) :
    lateWakeUps n u = u := by
  cases n with
  | zero => rfl
  | succ n =>
    have hnone : (u.csq.wakeups.find? fun w => decide (w.part ≤ u.csq.seg.part)) = none := by
      simp only [List.find?_eq_none, decide_eq_true_eq, not_le]
      exact h
    simp only [lateWakeUps, hnone]

/-- R65: the next part begins: its segment, its marks, the pointers that lie before it. -/
theorem nextPart_eq (s : State) : nextPart s =
    let ps := partsOf s
    let i := s.csq.seg.part + 1
    { s with csq := { s.csq with
      seg := ⟨i, tauOf s.csq.seg (ps.getD s.csq.seg.part Part.nil).length, 0, (ps.getD i Part.nil).tempo⟩, nextMark := 0
      play := s.csq.play.toPart ps (lookFuel s) i, lead := s.csq.lead.toPart ps (lookFuel s) i } } := by
  have hroll : rollTo (partsOf s) (s.csq.seg.part + 1) s.csq.seg = ⟨s.csq.seg.part + 1,
      tauOf s.csq.seg (partAt (partsOf s) s.csq.seg.part).length, 0,
      (partAt (partsOf s) (s.csq.seg.part + 1)).tempo⟩ := by
    rw [rollTo, Nat.add_sub_cancel_left]
    rfl
  simp only [nextPart, State.modCsq, hroll]
  rfl

/-- R65, R37, R52, R95: the programme ends at a station with no figure. -/
theorem programmeEnds_eq {s : State} (hnone : ∀ f, figRec s f = none) : programmeEnds s = { s with
    she := { s.she with engine := .settling }, gtu := { s.gtu with gate := none }
    csq := { s.csq with
      parts := none, builtin := false, slotA := CueSlot.vacant, slotB := CueSlot.vacant
      play := Cursor.nowhere, lead := Cursor.nowhere, running := false
      tau := tauOf s.csq.seg ((partsOf s).getD s.csq.seg.part Part.nil).length, gatesDone := []
      gateAfter := none, gateTick := 0, nextMark := 0, wakeups := [], port := [], underruns := [] }
    bel := { s.bel with hours := [], run := s.bel.run.map fun r => { r with damper := .down } }
    fig := { s.fig with run := s.fig.run.map fun r => { r with showMove := false } }
    chr := { s.chr with strobeEnd := none }
    bus := { s.bus with queue := s.bus.queue.filter fun f =>
      !(match f.content with
        | .ready _ _ | .go _ _ _ => true
        | _ => false) || s.bus.current == some f.id } } := by
  have hgate : isGateFrame = fun c => match c with
      | .ready _ _ | .go _ _ _ => true
      | _ => false := by funext c; cases c <;> rfl
  have hparks : ∀ v : State, v.fig = s.fig → parkChecks v = clearMoves v := by
    intro v hv
    rw [parkChecks, figNumbers_none (by intro f; simpa only [figRec, hv] using hnone f)]
    rfl
  simp only [programmeEnds, tauNow, partAt]
  generalize tauOf s.csq.seg ((partsOf s).getD s.csq.seg.part Part.nil).length = tau
  have hstop : stopMoves = fun r => { r with showMove := false } := rfl
  simp only [bellsEnd, dropDampers, clearGate, removeFrames, hgate, setEngine, strobeLow, State.modCsq, State.modChr,
    State.modGtu, State.modBus, State.modBel, State.modShe]
  rw [hparks _ (by rfl)]
  simp only [clearMoves, hstop, State.modFig, Csq.idle] <;> rfl

/-- Settles O42. -/
theorem lastPartEndsTheProgramme : Obligations.LastPartEndsTheProgramme := by
  intro t s hlive hrest hrunning ends next
  let u : State := { s with now := t }
  have hexec : exec (.partEnd t) s = .next (settleZones trialFuel (endParts 9 u)) :=
    event_live hlive fun s => settleZones trialFuel (endParts 9 s)
  have hover : partOver u = decide (ends ≤ showTime u) := by
    rw [partOver, show u.csq.running = true from hrunning, Bool.true_and]
    rfl
  have hends : ends ≤ showTime u → endParts 9 u = endParts 8 (endPart u) := by
    intro htime
    rw [endParts, if_pos (by rw [hover]; exact decide_eq_true htime)]
  refine ⟨fun hearly => ?_, fun htime hmore => ?_, fun htime hlast hnone => ?_⟩
  · rw [hexec, endParts, if_neg, settleZones_rest (by exact hrest)]
    rw [hover, decide_eq_true_eq]
    exact not_le.mpr hearly
  · refine ⟨s.csq.play.toPart (partsOf s) (lookFuel s) next, s.csq.lead.toPart (partsOf s) (lookFuel s) next, ?_,
      lateWakeUps wakeFuel u, ?_, ?_, ?_⟩
    · have hpointer : ∀ c : Cursor,
          ((∃ q, c.pos = some q ∧ q.part < next ∧ q.pass < ((partsOf s).getD q.part Part.nil).passes q.sec
              ∧ q.idx < (((partsOf s).getD q.part Part.nil).range q.sec).count) →
            (c.toPart (partsOf s) (lookFuel s) next).pos = firstPosFrom (partsOf s) next)
          ∧ ((∀ q, c.pos = some q → next ≤ q.part) → c.toPart (partsOf s) (lookFuel s) next = c) := by
        intro c
        refine ⟨?_, toPart_stays _ _ _ c⟩
        rintro ⟨q, hpos, hbefore, hpass, hidx⟩
        exact toPart_pos s c q next hpos hbefore ⟨hbefore.trans hmore, hpass, hidx⟩
      intro x hx
      simp only [List.mem_cons, List.not_mem_nil, or_false] at hx
      rcases hx with rfl | rfl
      · exact hpointer s.csq.play
      · exact hpointer s.csq.lead
    · have hend : endPart u = pump (nextPart (lateWakeUps wakeFuel u)) := if_pos hmore
      have hlate := lateWakeUps_csq wakeFuel u
      generalize lateWakeUps wakeFuel u = late at hend hlate
      have hparts : partsOf late = partsOf s := by rw [partsOf, hlate]; rfl
      have hfuel : lookFuel late = lookFuel s := by rw [lookFuel, lookFuel, hparts]
      have hseg : late.csq.seg = s.csq.seg := by rw [hlate]
      have hplay : late.csq.play = s.csq.play := by rw [hlate]
      have hlead : late.csq.lead = s.csq.lead := by rw [hlate]
      rw [hexec, hends htime, hend, nextPart_eq]
      simp only [hparts, hfuel, hseg, hplay, hlead]
      rfl
    · intro hkept
      exact lateWakeUps_none hkept
    · intro w r hwake hhours hid hpart hlast
      have hfind : (u.csq.wakeups.find? fun w => decide (w.part ≤ u.csq.seg.part)) = some w := by
        rw [show u.csq.wakeups = [w] from hwake]
        simp [show w.part ≤ u.csq.seg.part from Nat.le_of_lt_succ hpart]
      have hanswer := answerWakeUp_only (u := u) (tau := tauNow u w.tick) hwake hhours hid
      simp only [if_pos hlast] at hanswer
      rw [lateWakeUps, hfind]
      simp only [hanswer]
      rw [lateWakeUps_none]
      · rfl
      · rw [takeStrike_csq]
        simp
  · have hend : endPart u = programmeEnds u := if_neg (not_lt.mpr hlast)
    have hstops : endParts 8 (programmeEnds u) = programmeEnds u := by
      rw [endParts, if_neg]
      rw [programmeEnds_eq (s := u) hnone]
      simp [partOver]
    rw [hexec, hends htime, hend, hstops, programmeEnds_eq (s := u) hnone, settleZones_rest (by exact hrest)]
      <;> rfl

end Sys2Proof.Machine

/-! SUPPORT. Proofs about the pointers while the beat clock stands, and about GATE cues (chapter 4). -/

namespace Sys2Proof.Machine

/-! ## What a pointer finds depends on (R58, R60) -/

/-- Two states in which a cursor finds the same: the programme in use, the slots, the gates taken up, the hour bell and
the channels agree. -/
structure SameView (s u : State) : Prop where
  parts : u.csq.parts = s.csq.parts
  builtin : u.csq.builtin = s.csq.builtin
  slotA : u.csq.slotA = s.csq.slotA
  slotB : u.csq.slotB = s.csq.slotB
  gatesDone : u.csq.gatesDone = s.csq.gatesDone
  hourBell : u.bel.hourBell = s.bel.hourBell
  channels : u.chr.channels = s.chr.channels

theorem SameView.partsOf {s u : State} (h : SameView s u) : partsOf u = partsOf s := by
  rw [Machine.partsOf, h.parts, Machine.partsOf]

theorem SameView.cueView {s u : State} (h : SameView s u) (c : Cursor) : cueView u c = cueView s c := by
  unfold Machine.cueView slotOf builtinCue
  rw [h.builtin, h.slotA, h.slotB, h.hourBell, h.partsOf]

theorem SameView.cueValid {s u : State} (h : SameView s u) (ps : List Part) (p : Pos) (prev : Option Nat) (q : Cue) :
    cueValid u ps p prev q = cueValid s ps p prev q := by
  unfold Machine.cueValid fieldsValid chanRec
  rw [h.channels]

theorem SameView.playRests {s u : State} (h : SameView s u) {c : Cursor} (hc : PlayRests s c) : PlayRests u c := by
  simpa only [PlayRests, h.cueView, h.cueValid, h.partsOf, h.gatesDone] using hc

theorem SameView.leadRests {s u : State} (h : SameView s u) {c : Cursor} (hc : LeadRests s c) : LeadRests u c := by
  simpa only [LeadRests, h.cueView, h.cueValid, h.partsOf] using hc

/-! ## Pointers at rest (R62, R63, R68) -/

theorem lookFuel_pos (s : State) : ∃ n, lookFuel s = n + 1 := ⟨_, rfl⟩

/-- Pointers at rest, no slot left: nothing moves. -/
theorem pumpLoop_rests {s : State} (hstands : s.csq.running = false) (hwait : s.csq.play.waiting = none)
    (hplay : PlayRests s s.csq.play) (hlead : LeadRests s s.csq.lead) (n : Nat) : pumpLoop n s = markWaiting s := by
  cases n with
  | zero => rfl
  | succ n => simp only [pumpLoop, playMove_rests hplay hwait, leadMove_rests hstands hlead]

/-- The state of pointers that stand, once their waits are noted. -/
theorem markWaiting_standsAt {c : Cursor} {w x : State} (hview : SameView w x)
    (hx : x = { w with csq := { w.csq with
      play := { c with waiting := none }, lead := { w.csq.lead with waiting := none } } }) :
    ∃ wait, markWaiting x = standsAt c wait w := by
  have hplay : waitsFor x x.csq.play false = if cueView w c = .unread then some c.item else none := by
    have hfinds : cueView x x.csq.play = cueView w c := by
      rw [hview.cueView, hx]
      rfl
    rw [waitsFor, hfinds, hx]
    cases cueView w c <;> simp
  refine ⟨waitsFor x x.csq.lead true, ?_⟩
  have hmarks : markWaiting x = { x with csq := { x.csq with
      play := { x.csq.play with waiting := waitsFor x x.csq.play false }
      lead := { x.csq.lead with waiting := waitsFor x x.csq.lead true } } } := rfl
  rw [hmarks, hplay, standsAt]
  generalize waitsFor x x.csq.lead true = wait
  rw [hx]

/-- Both pointers at rest where they stand: what is noted is what they wait for. -/
theorem pump_rests {v : State} (hstands : v.csq.running = false) (hplay : PlayRests v v.csq.play)
    (hlead : LeadRests v v.csq.lead) (hslots : NoSlotLeft v v.csq.play) :
    ∃ wait, pump v = standsAt v.csq.play wait v := by
  have hview : SameView v (endWaits v) := ⟨rfl, rfl, rfl, rfl, rfl, rfl, rfl⟩
  obtain ⟨wait, hwait⟩ := markWaiting_standsAt (c := v.csq.play) hview rfl
  refine ⟨wait, ?_⟩
  have hslots' : ∀ n, leaveSlots n (endWaits v) = endWaits v := fun n => leaveSlots_none (w := endWaits v) hslots n
  rw [pump, if_neg (by simp [hstands]), stand, movePointers, hslots',
    pumpLoop_rests (s := endWaits v) hstands rfl (hview.playRests hplay) (hview.leadRests hlead), hwait]

/-- The play pointer makes one move and is at rest, the lead pointer rests where it stands. -/
theorem pump_moves {v w : State} {c : Cursor} (hstands : v.csq.running = false) (hview : SameView v w)
    (hlead : w.csq.lead = v.csq.lead) (hrunning : w.csq.running = v.csq.running)
    (hitem : v.csq.play.item ≤ c.item)
    (hmove : playMove (endWaits v) = some (setPlay { c with waiting := none } (endWaits w)))
    (hplay : PlayRests v c) (hrests : LeadRests v v.csq.lead) (hslots : NoSlotLeft v c) :
    ∃ wait, pump v = standsAt c wait w := by
  let x := setPlay { c with waiting := none } (endWaits w)
  have hview' : SameView w x := ⟨rfl, rfl, rfl, rfl, rfl, rfl, rfl⟩
  have hviewX : SameView v x := ⟨hview.parts, hview.builtin, hview.slotA, hview.slotB, hview.gatesDone, hview.hourBell,
    hview.channels⟩
  obtain ⟨wait, hwait⟩ := markWaiting_standsAt (c := c) (x := x) hview' rfl
  refine ⟨wait, ?_⟩
  have hslotsV : ∀ n, leaveSlots n (endWaits v) = endWaits v := by
    refine fun n => leaveSlots_none (w := endWaits v) (fun sl hsl => ?_) n
    exact (hslots sl hsl).imp_right ((min_le_min_right _ hitem).trans ·)
  have hslotsX : ∀ n, leaveSlots n x = x := by
    refine fun n => leaveSlots_none (fun sl hsl => ?_) n
    have hsl' : sl ∈ [v.csq.slotA, v.csq.slotB] := by rw [← hview.slotA, ← hview.slotB]; exact hsl
    have hleadX : x.csq.lead.item = v.csq.lead.item := (show x.csq.lead.item = w.csq.lead.item from rfl).trans (hlead ▸ rfl)
    rw [hleadX]
    exact hslots sl hsl'
  have hstandsX : x.csq.running = false := hrunning.trans hstands
  have hrestsX : LeadRests x x.csq.lead := by
    have hleadX : x.csq.lead = { v.csq.lead with waiting := none } := by rw [← hlead]; rfl
    rw [hleadX]
    exact hviewX.leadRests (c := { v.csq.lead with waiting := none }) hrests
  obtain ⟨n, hn⟩ := lookFuel_pos (endWaits v)
  rw [pump, if_neg (by simp [hstands]), stand, movePointers, hslotsV, hn, show 2 * (n + 1) = (2 * n + 1) + 1 by ring,
    pumpLoop, hmove]
  change pumpLoop (2 * n + 1) (leaveSlots (lookFuel x) x) = _
  rw [hslotsX, pumpLoop_rests hstandsX rfl (hviewX.playRests hplay) hrestsX, hwait]

theorem step_waiting (ps : List Part) (prev wait : Option Nat) (c : Cursor) :
    Cursor.step ps prev { c with waiting := wait } = { c.step ps prev with waiting := wait } := by
  rcases c with ⟨_ | p, item, last, old⟩
  · rfl
  · simp only [Cursor.step]
    cases nextPos ps p <;> rfl

/-- R68: a strike, or a GATE cue already taken up, is stepped over. -/
theorem playMove_taken {p : Pos} {q : Cue} {s : State} (hcue : cueView s s.csq.play = .cue p q)
    (hvalid : cueValid s (partsOf s) p s.csq.play.prev q = true)
    (htaken : isStrikeKind q = true ∨ (q.kind = 7 ∧ p ∈ s.csq.gatesDone)) :
    playMove s = some (setPlay (s.csq.play.step (partsOf s) (some q.tick)) s) := by
  simp only [playMove, hcue, hvalid, Bool.true_eq_false, if_false]
  exact if_pos htaken

/-- R67: a GATE cue at the play pointer itself, not taken up yet, is the first of its run. -/
theorem pendingGate_here {p : Pos} {q : Cue} {s : State} (hcue : cueView s s.csq.play = .cue p q)
    (hvalid : cueValid s (partsOf s) p s.csq.play.prev q = true) (hkind : q.kind = 7) (hnew : p ∉ s.csq.gatesDone)
    (hpos : s.csq.play.pos = some p) : pendingGate s p (cueTick (partsOf s) p q) = some (s.csq.play, q.a) := by
  obtain ⟨n, hn⟩ := lookFuel_pos s
  rw [pendingGate, hn, gatesOfRun, hcue]
  simp only [hvalid, hkind, and_self, if_true, List.find?_cons, hpos]
  simp [hnew]

/-- R67: a GATE cue due at the play pointer is handed to the Gate Unit. -/
theorem exec_cueDue_gate {t : Nat} {p : Pos} {q : Cue} {s : State} (hlive : Live t s) (hrunning : s.csq.running = true)
    (hcue : cueView s s.csq.play = .cue p q) (hvalid : cueValid s (partsOf s) p s.csq.play.prev q = true)
    (hpart : p.part = s.csq.seg.part)
    (htime : tauOf s.csq.seg (cueTick (partsOf s) p q) ≤ showTime { s with now := t }) (hkind : q.kind = 7)
    (hnew : p ∉ s.csq.gatesDone) (hpos : s.csq.play.pos = some p) :
    exec (.cueDue t) s = .next (settleZones trialFuel (pump
      (takeGateCue s.csq.play q.a (cueTick (partsOf s) p q) { s with now := t }))) := by
  let u : State := { s with now := t }
  have hdue : dueCue u = some (p, q, cueTick (partsOf s) p q) := by
    have hcue' : cueView u u.csq.play = .cue p q := hcue
    have hstrike : isStrikeKind q = false := by simp [isStrikeKind, hkind]
    simp only [dueCue, hcue']
    exact if_pos ⟨hrunning, hvalid, hstrike, hpart, htime⟩
  have hplays : playDue u = pump (takeGateCue s.csq.play q.a (cueTick (partsOf s) p q) u) := by
    simp only [playDue, show u.csq.running = true from hrunning, if_true, hdue, dispatchPlay]
    rw [show pendingGate u p (cueTick (partsOf s) p q) = some (s.csq.play, q.a) from
      pendingGate_here (s := u) hcue hvalid hkind hnew hpos]
  calc exec (.cueDue t) s
      = event t (fun s => settleZones trialFuel (playDue s)) s := rfl
    _ = _ := by rw [event_live hlive, hplays]

theorem meetsR42_ready {g : GateRec} {s : State} (hg : s.gtu.gate = some g) (hroom : s.bus.queue.length < 8) :
    (MeetsR42 g s → gateCheck s = readyAt g s) ∧ (g.number ≠ some 0 → ¬MeetsR42 g s → gateCheck s = s) := by
  refine ⟨fun hmeets => ?_, fun hnumber hnot => ?_⟩
  · have hnumber : g.number ≠ some 0 := by
      obtain ⟨-, ⟨n, hn⟩, -⟩ := hmeets
      simp [hn]
    exact gateCheck_ready hg ((gateReady_iff g s hnumber).mpr hmeets) hroom
  · exact gateCheck_not hg fun hready => hnot ((gateReady_iff g s hnumber).mp hready)

/-- Settles O40. -/
theorem gateCueStopsTheClock : Obligations.GateCueStopsTheClock := by
  refine ⟨?_, ?_, fun g s => meetsR42_ready⟩
  · intro t p q g s hlive hrest hrunning hcue hvalid hpart htime hkind hnumber hnew hpos hroom hg hgate hphase
      tick after held stood u c
    have hexec := exec_cueDue_gate hlive hrunning hcue hvalid hpart htime hkind hnew hpos
    have htakes : takeGateCue s.csq.play q.a tick { s with now := t } = gateCheck u := by
      have hcond : q.a ≠ 0 ∧ gateNumber { s with now := t } = some q.a
          ∧ (({ s with now := t } : State).gtu.gate.map (·.phase)) = some .ahead := by
        simp [gateNumber, hg, hgate, hnumber, hphase]
      rw [takeGateCue, if_pos hcond, stopAtGate, hpos, modGate_some (by exact hg)]
      rfl
    have hmeets : MeetsR42 stood u ↔ (∀ r ∈ s.fig.run, r.showMove = false) ∧ (after.pos = none ∨ held) := by
      have hstanding : stood.phase = .standing ∧ ∃ n, stood.number = some (n + 1) :=
        ⟨rfl, q.a - 1, by rw [Nat.sub_add_cancel (Nat.pos_of_ne_zero hnumber)]; exact hgate⟩
      have hnotPassed : ¬after.item < min s.csq.play.item s.csq.lead.item :=
        not_lt.mpr ((min_le_left _ _).trans (step_item ..))
      unfold MeetsR42
      simp only [hstanding, true_and]
      refine and_congr_right fun _ => ?_
      rw [show u.csq.gateAfter = some (after.pos, after.item) from rfl]
      rcases after.pos with _ | next
      · simp
      · simp only [reduceCtorEq, false_or]
        exact or_congr_right (or_iff_left hnotPassed)
    obtain ⟨hready, hstays⟩ := meetsR42_ready (g := stood) (s := u) rfl hroom
    refine ⟨fun hmoves hheld => ?_, fun hnot => ?_, fun w hw => ?_⟩
    · rw [hexec, htakes, hready (hmeets.mpr ⟨hmoves, hheld⟩)]
    · rw [hexec, htakes, hstays (by simpa [stood, hgate] using hnumber) (hmeets.not.mpr hnot)]
    · have hview : SameView u w := by
        simp only [List.mem_cons, List.not_mem_nil, or_false] at hw
        rcases hw with rfl | rfl <;> exact ⟨rfl, rfl, rfl, rfl, rfl, rfl, rfl⟩
      have hcsq : w.csq = u.csq := by
        simp only [List.mem_cons, List.not_mem_nil, or_false] at hw
        rcases hw with rfl | rfl <;> rfl
      have hviewX : SameView u (endWaits w) := ⟨hview.parts, hview.builtin, hview.slotA, hview.slotB, hview.gatesDone,
        hview.hourBell, hview.channels⟩
      have hmove : playMove (endWaits w) = some (setPlay { c with waiting := none } (endWaits w)) := by
        have hplayX : (endWaits w).csq.play = { s.csq.play with waiting := none } := by
          rw [show (endWaits w).csq.play = { w.csq.play with waiting := none } from rfl, hcsq]
        have hcueX : cueView (endWaits w) (endWaits w).csq.play = .cue p q := by
          rw [hviewX.cueView, hplayX]
          exact hcue
        have hvalidX : cueValid (endWaits w) (partsOf (endWaits w)) p (endWaits w).csq.play.prev q = true := by
          rw [hviewX.cueValid, hviewX.partsOf, hplayX]
          exact hvalid
        have hdone : p ∈ (endWaits w).csq.gatesDone := by
          rw [hviewX.gatesDone]
          exact List.mem_append_right _ (List.mem_singleton_self p)
        rw [playMove_taken hcueX hvalidX (.inr ⟨hkind, hdone⟩), hplayX, hviewX.partsOf, step_waiting]
        rfl
      refine ⟨hmove, fun hplay hlead hslots => ?_⟩
      have hslotsW : NoSlotLeft w c := by rw [NoSlotLeft, hcsq]; exact hslots
      refine pump_moves (by rw [hcsq]) ⟨rfl, rfl, rfl, rfl, rfl, rfl, rfl⟩ rfl rfl ?_ hmove (hview.playRests hplay) ?_ hslotsW
      · rw [hcsq]
        exact step_item ..
      · rw [hcsq]
        exact hview.leadRests hlead
  · intro t p q g s hlive hrunning hcue hvalid hpart htime hkind hnew hpos hg hother skipped
    have hexec := exec_cueDue_gate hlive hrunning hcue hvalid hpart htime hkind hnew hpos
    have htakes : takeGateCue s.csq.play q.a (cueTick (partsOf s) p q) { s with now := t } = skipped := by
      rw [takeGateCue, if_neg, hpos]
      · rfl
      · rintro ⟨hnonzero, hnumber, -⟩
        rcases hother with hzero | hdiff
        · exact hnonzero hzero
        · rw [gateNumber, show ({ s with now := t } : State).gtu.gate = some g from hg] at hnumber
          exact hdiff hnumber
    have hcsq : skipped.csq = { s.csq with gatesDone := s.csq.gatesDone ++ [p] } := raiseFault_csq ..
    have hview : SameView { s with csq := { s.csq with gatesDone := s.csq.gatesDone ++ [p] } } skipped :=
      ⟨congrArg Csq.parts hcsq, congrArg Csq.builtin hcsq, congrArg Csq.slotA hcsq, congrArg Csq.slotB hcsq,
        congrArg Csq.gatesDone hcsq, congrArg Bel.hourBell (raiseFault_bel ..),
        congrArg Chr.channels (raiseFault_chr ..)⟩
    have hplay : skipped.csq.play = s.csq.play := by rw [hcsq]
    refine ⟨by rw [hexec, htakes], by rw [hcsq]; exact hrunning, ?_⟩
    have hcueX : cueView skipped skipped.csq.play = .cue p q := by
      rw [hview.cueView, hplay]
      exact hcue
    have hvalidX : cueValid skipped (partsOf skipped) p skipped.csq.play.prev q = true := by
      rw [hview.cueValid, hview.partsOf, hplay]
      exact hvalid
    have hdone : p ∈ skipped.csq.gatesDone := by
      rw [hview.gatesDone]
      exact List.mem_append_right _ (List.mem_singleton_self p)
    rw [playMove_taken hcueX hvalidX (.inr ⟨hkind, hdone⟩), hplay, hview.partsOf]
    rfl

end Sys2Proof.Machine

/-! SUPPORT. Proofs about cues due and reads of the cue memory (chapter 4). -/

namespace Sys2Proof.Machine

/-! ## Cues due (R63, R68) -/

theorem dueCue_none {p : Pos} {q : Cue} {s : State} (hcue : cueView s s.csq.play = .cue p q)
    (hearly : showTime s < tauOf s.csq.seg (cueTick (partsOf s) p q)) : dueCue s = none := by
  simp only [dueCue, hcue]
  exact if_neg fun h => absurd h.2.2.2.2 (not_le.mpr hearly)

/-- R89: a DAMP cue, of a bell not configured, not enabled or without a damper; DOWN; up. -/
theorem takeDamp_eq (b action : Nat) (s : State) :
    let damper := fun d => { s with bel := { s.bel with run := s.bel.run.set b { bellRun s b with damper := d } } }
    takeDamp b action s = match bellRec s b with
      | none => s
      | some c =>
        if c.enabled = false ∨ c.damper = none then s
        else if action = 1 then damper .down
        else if s.chr.rail = .cut then s
        else match (bellRun s b).hammer with
          | .pulsing _ => damper .upHeld
          | _ => damper (.up (s.now + c.ring * 1000)) := by
  intro damper
  have hrun : ∀ g : BellRun → BellRun, modBellRun b g s
      = { s with bel := { s.bel with run := s.bel.run.set b (g (bellRun s b)) } } := fun _ => rfl
  rw [takeDamp]
  cases bellRec s b with
  | none => rfl
  | some c =>
    have hable : (c.enabled = true ∧ hasDamper c = true) ↔ ¬(c.enabled = false ∨ c.damper = none) := by
      rw [not_or, Bool.not_eq_false, hasDamper, Option.isSome_iff_ne_none]
    by_cases hnot : c.enabled = false ∨ c.damper = none
    · simp only [if_pos hnot, if_neg fun h => hable.mp h hnot]
    · simp only [if_neg hnot, if_pos (hable.mpr hnot), hrun]
      refine if_congr Iff.rfl rfl (if_congr Iff.rfl rfl ?_)
      change damper (if isPulsing (bellRun s b).hammer then .upHeld else .up (s.now + c.ring * 1000)) = _
      generalize (bellRun s b).hammer = hammer
      cases hammer <;> rfl

/-- R100 to R102: a MOVE that is resolved, by the state of its figure. -/
theorem takeMove_skipped {f path scale : Nat} {mirrored : Bool} {s : State}
    (hgate : ∀ g, s.gtu.gate = some g → g.phase ≠ .standing)
    (hskip : (figRec s f).bind (fun c => resolveMove c (s.fig.paths.getD path PathRec.empty) mirrored) = none
      ∨ (figRun s f).state ∈ [FigState.unhomed, .homing, .jammed, .failed]) :
    takeMove f path scale mirrored s = addMoveSkipped s := by
  have hcheck : gateCheck (addMoveSkipped s) = addMoveSkipped s := gateCheck_inert _ hgate
  rw [takeMove]
  rcases hmove : (figRec s f).bind fun c => resolveMove c (s.fig.paths.getD path PathRec.empty) mirrored with _ | w
  · exact hcheck
  · rcases hskip with hnone | hstate
    · rw [hmove] at hnone
      cases hnone
    · simp only [List.mem_cons, List.not_mem_nil, or_false] at hstate
      rcases hstate with h | h | h | h <;> simp only [h] <;> exact hcheck

theorem takeMove_busy {f path scale : Nat} {mirrored : Bool} {w : List (Nat × Nat)} {s : State}
    (hgate : ∀ g, s.gtu.gate = some g → g.phase ≠ .standing)
    (hmove : (figRec s f).bind (fun c => resolveMove c (s.fig.paths.getD path PathRec.empty) mirrored) = some w)
    (hstate : (figRun s f).state ∈ [FigState.waitZone, .moving, .paused]) :
    takeMove f path scale mirrored s = raiseFault .moveBusy f s := by
  have hcheck : gateCheck (raiseFault .moveBusy f s) = raiseFault .moveBusy f s :=
    gateCheck_inert _ (by rw [raiseFault_gtu]; exact hgate)
  simp only [takeMove, hmove]
  simp only [List.mem_cons, List.not_mem_nil, or_false] at hstate
  rcases hstate with h | h | h <;> simp only [h] <;> exact hcheck

theorem takeMove_begins {f path scale : Nat} {mirrored : Bool} {w : List (Nat × Nat)} {s : State}
    (hmove : (figRec s f).bind (fun c => resolveMove c (s.fig.paths.getD path PathRec.empty) mirrored) = some w)
    (hstate : (figRun s f).state = .parked) : takeMove f path scale mirrored s =
      beginMove f scale w (if mirrored then (s.fig.paths.getD path PathRec.empty).mirrorZones
        else (s.fig.paths.getD path PathRec.empty).zones) s := by
  simp only [takeMove, hmove, hstate]

/-- R102, R119: a move run begins at a figure with no request in the list. -/
theorem beginMove_eq {f scale : Nat} {waypoints zones : List (Nat × Nat)} {s : State} (hrest : ZonesAtRest s)
    (hnone : ∀ r ∈ s.zon.reqs, r.figure ≠ f) : beginMove f scale waypoints zones s = { s with
      fig := { s.fig with run := s.fig.run.set f { figRun s f with
        state := .waitZone, showMove := true
        run := some ⟨.move, waypoints, 1, scale, zones, false, .claim, .seek, .off, false⟩ } }
      zon := if zones = [] then { s.zon with granted := [f] }
        else { s.zon with
          trialDue := true, reqs := s.zon.reqs ++ [⟨f, zones.map (·.1), .waiting⟩] } } := by
  rw [beginMove, requestRun]
  by_cases hzones : zones = []
  · rw [if_pos (by simp [hzones]), if_pos hzones]
    simp only [modFigRun, State.modFig, State.modZon, hrest.2, List.nil_append]
    rfl
  · rw [if_neg (by simpa using hzones), if_neg hzones, enterRequest, withdrawRequest_idle f _ (by exact hnone)]
    rfl

/-- R63: a pointer whose cue falls due in a block not read. -/
theorem playDue_unread {s : State} (hrunning : s.csq.running = true) (hunread : cueView s s.csq.play = .unread) :
    playDue s = recordUnderrun s.csq.play.item s := by
  simp only [playDue, hrunning, if_true, dueCue, hunread]

theorem playDue_early {s : State} (hrunning : s.csq.running = true) (hdue : dueCue s = none)
    (hread : cueView s s.csq.play ≠ .unread) : playDue s = s := by
  simp only [playDue, hrunning, if_true, hdue, if_neg hread]

theorem leadDue_unread {s : State} (hrunning : s.csq.running = true) (hunread : cueView s s.csq.lead = .unread) :
    leadDue s = recordUnderrun s.csq.lead.item s := by
  simp only [leadDue, hrunning, if_true, hunread]

/-- Settles O39. -/
theorem dueCueIsHandedToItsUser : Obligations.DueCueIsHandedToItsUser := by
  refine ⟨fun t s hlive hrest hrunning => ?_, fun t p q s hlive hrest hrunning hcue hvalid hpart => ?_⟩
  · intro late
    have hrecord : ∀ item, recordUnderrun item { s with now := t } = late item := fun _ => rfl
    refine ⟨fun hunread => ?_, fun hunread => ?_⟩
    · refine zoneEvent_of hlive hrest playDue ?_ ?_
      · rw [playDue_unread (s := { s with now := t }) hrunning hunread, hrecord]
      · rw [← hrecord, recordUnderrun]
        split <;> simp
    · have hexec : exec (.strikeDispatch t) s = .next (leadDue { s with now := t }) := event_live hlive _
      rw [hexec, leadDue_unread (s := { s with now := t }) hrunning hunread, hrecord]
  · intro u tick moved
    refine ⟨fun hkind hearly => ?_, fun htime hgates => ?_⟩
    · refine zoneEvent_of hlive hrest playDue ?_ rfl
      have hcueU : cueView u u.csq.play = .cue p q := hcue
      exact playDue_early (s := u) hrunning (dueCue_none (s := u) hcueU hearly) (by simp [hcueU])
    · have hexec : isStrikeKind q = false →
          exec (.cueDue t) s = .next (settleZones trialFuel (pump (playCue p q tick moved))) := fun hstrike =>
        exec_cueDue_eq t p q s hlive hrunning hcue hvalid hpart htime hgates hstrike
      refine ⟨fun hkind => ?_, fun hkind => ?_, fun hkind => ?_, fun hkind hgate => ?_⟩
      · rw [hexec (by simp [isStrikeKind, hkind]), playCue, hkind]
        rfl
      · rw [hexec (by simp [isStrikeKind, hkind]), playCue, hkind]
        rfl
      · intro damper
        rw [hexec (by simp [isStrikeKind, hkind]), playCue, hkind]
        exact congrArg Host.Outcome.next (congrArg _ (congrArg pump (takeDamp_eq q.a q.b moved)))
      · intro path mirrored fits state zones
        have hmirror : ((q.d != 0) != (partAt (partsOf moved) p.part).mirror) = mirrored := by
          have hturned : (q.d != 0) = decide (q.d ≠ 0) := by simp [bne, Bool.beq_eq_decide_eq]
          rw [hturned]
          rfl
        have hplays : exec (.cueDue t) s
            = .next (settleZones trialFuel (pump (takeMove q.a q.b q.c mirrored moved))) := by
          rw [hexec (by simp [isStrikeKind, hkind]), ← hmirror, playCue, hkind]
          rfl
        have hresolves : ∀ c, figRec s q.a = some c →
            ((figRec moved q.a).bind fun c => resolveMove c (moved.fig.paths.getD q.b PathRec.empty) mirrored)
              = if fits c then some (path.waypoints.map fun w => (if mirrored then c.travelMax - w.1 else w.1, w.2))
                else none := by
          intro c hc
          rw [show figRec moved q.a = some c from hc]
          exact resolveMove_eq c path mirrored
        refine ⟨fun hskip => ?_, fun c hc hfits => ⟨fun hbusy => ?_, fun hparked hnone => ?_⟩⟩
        · have hskip' : (figRec moved q.a).bind (fun c =>
                resolveMove c (moved.fig.paths.getD q.b PathRec.empty) mirrored) = none
              ∨ (figRun moved q.a).state ∈ [FigState.unhomed, .homing, .jammed, .failed] := by
            refine hskip.imp_left fun hfails => ?_
            rcases hc : figRec s q.a with _ | c
            · rw [show figRec moved q.a = none from hc]
              rfl
            · rw [hresolves c hc, if_neg (hfails c hc)]
          rw [hplays, takeMove_skipped (s := moved) hgate hskip']
          rfl
        · rw [hplays, takeMove_busy (s := moved) hgate ((hresolves c hc).trans (if_pos hfits)) hbusy]
        · rw [hplays, takeMove_begins (s := moved) ((hresolves c hc).trans (if_pos hfits)) hparked,
            beginMove_eq (s := moved) hrest hnone]
          rfl

end Sys2Proof.Machine

/-! SUPPORT. Proofs about reads of the cue memory and BAD blocks (chapter 4). -/

namespace Sys2Proof.Machine

/-! ## Reads judged (R59) -/

theorem judgeRead_eq {r : PortRead} {d : List Byte} (hpast : readPast r = false) (hlen : d.length = readLen r.use) :
    judgeRead r d = if noAnswer d then .silent else if sumGood r.use d then .good else .badSum := by
  simp only [judgeRead, hpast, readBytes_self _ d hlen, Bool.false_eq_true, if_false]

theorem judgeRead_answers {r : PortRead} {d : List Byte} (hpast : readPast r = false) (hlen : d.length = readLen r.use)
    (hanswers : ∃ b ∈ d, b ≠ 0xFF) : judgeRead r d = if sumGood r.use d then .good else .badSum := by
  rw [judgeRead_eq hpast hlen, answers_of_mem hanswers]
  exact if_neg Bool.false_ne_true

theorem judgeRead_silent {r : PortRead} {d : List Byte} (hpast : readPast r = false) (hlen : d.length = readLen r.use)
    (hsilent : ∀ b ∈ d, b = 0xFF) : judgeRead r d = .silent := by
  have hbytes : d ≠ [] := by
    rintro rfl
    cases hu : r.use <;> simp [readLen, hu] at hlen
  rw [judgeRead_eq hpast hlen, noAnswer_iff.mpr ⟨hbytes, hsilent⟩]
  rfl

/-- A read whose sum fails, or that no memory answers, is not good. -/
theorem judgeRead_fails {r : PortRead} {d : List Byte} (hpast : readPast r = false) (hlen : d.length = readLen r.use)
    (hfails : sumGood r.use d = false ∨ ∀ b ∈ d, b = 0xFF) : judgeRead r d = .badSum ∨ judgeRead r d = .silent := by
  rcases hfails with hsum | hsilent
  · rw [judgeRead_eq hpast hlen, hsum]
    by_cases h : noAnswer d = true <;> simp [h]
  · exact .inr (judgeRead_silent hpast hlen hsilent)

theorem headerRead_retry {r : PortRead} {d : List Byte} {s : State}
    (hjudged : judgeRead r d = .badSum ∨ judgeRead r d = .silent) (hfirst : r.attempt = 1) :
    headerRead r d s = retryRead s := by
  rcases hjudged with h | h <;> simp only [headerRead, h, hfirst]

theorem headerRead_bad {r : PortRead} {d : List Byte} {s : State} (hjudged : judgeRead r d = .badSum)
    (hsecond : r.attempt ≠ 1) : headerRead r d s = headerFails (popRead s) := by
  unfold headerRead
  split <;> simp_all

theorem headerRead_silent {r : PortRead} {d : List Byte} {s : State} (hjudged : judgeRead r d = .silent)
    (hsecond : r.attempt ≠ 1) : headerRead r d s = stopUnmuted (popRead s) := by
  unfold headerRead
  split <;> simp_all

theorem blockRead_retry {r : PortRead} {d : List Byte} {s : State}
    (hjudged : judgeRead r d = .badSum ∨ judgeRead r d = .silent) (hfirst : r.attempt = 1) :
    blockRead r d s = retryRead s := by
  rcases hjudged with h | h <;> simp only [blockRead, h, hfirst]

theorem blockRead_good {r : PortRead} {d : List Byte} {sl : CueSlot} {s : State} (hjudged : judgeRead r d = .good)
    (hslot : slotFor s r.use = some sl) : blockRead r d s = blockGood r.use sl d (popRead s) := by
  simp only [blockRead, hjudged, hslot]

theorem blockRead_bad {r : PortRead} {d : List Byte} {sl : CueSlot} {s : State} (hjudged : judgeRead r d = .badSum)
    (hsecond : r.attempt ≠ 1) (hslot : slotFor s r.use = some sl) :
    blockRead r d s = blockFails r.use sl (popRead s) := by
  unfold blockRead
  split <;> simp_all

theorem blockRead_silent {r : PortRead} {d : List Byte} {sl : CueSlot} {s : State} (hjudged : judgeRead r d = .silent)
    (hsecond : r.attempt ≠ 1) (hslot : slotFor s r.use = some sl) :
    blockRead r d s = stopUnmuted (putSlot r.use CueSlot.vacant (popRead s)) := by
  unfold blockRead
  split <;> simp_all

/-! ## What the reads lead to (R54, R55, R62, R166) -/

theorem headerReadEnds_head {r : PortRead} {l : List PortRead} {d : List Byte} {s : State} (hport : s.csq.port = r :: l)
    (huse : r.use = .header) (htime : r.started + 416 ≤ s.now) : headerReadEnds d s = headerRead r d s := by
  have hover : readOver s r = true := by
    rw [readOver, huse, Bool.or_eq_true]
    exact .inr (decide_eq_true htime)
  simp only [headerReadEnds, hport, huse, hover, and_self, if_true]

theorem blockReadEnds_head {r : PortRead} {l : List PortRead} {d : List Byte} {s : State} (hport : s.csq.port = r :: l)
    (huse : r.use ≠ .header) (htime : r.started + 524 ≤ s.now) : blockReadEnds d s = blockRead r d s := by
  have hover : readOver s r = true := by
    rw [readOver, Bool.or_eq_true]
    refine .inr (decide_eq_true ?_)
    cases h : r.use with
    | header => exact absurd h huse
    | slotA item => exact htime
    | slotB item => exact htime
  simp only [blockReadEnds, hport, hover, and_true, ne_eq, huse, not_false_eq_true, if_true]

/-- R54, R34: a programme marked bad in ARMING, at a station with no figure. -/
theorem withdrawShow_markBad {v : State} (hengine : v.she.engine = .arming) (hsends : Sends v)
    (hnone : ∀ f, figRec v f = none) (hroom : v.bus.queue.length < 6) :
    withdrawShow .armingFailed (markBad v) = withdrawnFrom .armingFailed (markBad v) := by
  have hlen : (markBad v).bus.queue.length ≤ v.bus.queue.length + 1 := raiseFault_queue_length ..
  refine withdrawShow_eq .armingFailed _ ?_ ?_ ?_ (by omega)
  · rw [markBad, raiseFault_she]
    simp [State.modCsq, hengine]
  · rw [Sends, markBad, raiseFault_iml]
    exact hsends
  · intro f
    rw [figRec, markBad, raiseFault_fig]
    exact hnone f

theorem markBad_atRest {v : State} (hrest : ZonesAtRest v) : ZonesAtRest (markBad v) := by
  rw [ZonesAtRest, markBad, raiseFault_zon]
  exact hrest

theorem markBad_fields (v : State) : (markBad v).gtu = v.gtu ∧ (markBad v).fig = v.fig ∧ (markBad v).she = v.she
    ∧ (markBad v).bus.queue.length ≤ v.bus.queue.length + 1 :=
  ⟨raiseFault_gtu .., raiseFault_fig .., raiseFault_she .., raiseFault_queue_length ..⟩

/-- R166: the station stopped by a silent cue memory leaves the zones at rest. -/
theorem silent_atRest {v : State} (hrest : ZonesAtRest v) : ZonesAtRest (withdrawnFrom .stopped
    { raiseFault .imageUnreadable 0 v with iml := { v.iml with station := .stopped, muted := false } }) := by
  refine withdrawnFrom_atRest .stopped ?_
  rw [ZonesAtRest, raiseFault_zon]
  exact hrest

/-- R60: a header in use: both pointers at its first cue, the first two blocks being read. -/
theorem useHeader_eq {ps : List Part} {first : Pos} {s : State} (hfirst : firstPos ps = some first)
    (hport : s.csq.port = []) :
    let read := fun use p =>
      (⟨use, ((s.iml.header.map (·.libBase)).getD 0) + 258 * blockOf ps p, 1, s.now⟩ : PortRead)
    let start : Cursor := ⟨some first, 1, none, none⟩
    let armed := fun b port => { s with csq := { s.csq with
      parts := some ps, builtin := false, play := start, lead := start
      seg := ⟨0, 0, 0, (ps.getD 0 Part.nil).tempo⟩
      slotA := ⟨.filling, 1, first, blockOf ps first, []⟩, slotB := b, port := port } }
    useHeader ps false s = match nextItem ps first with
      | none => armed s.csq.slotB [read (.slotA 1) first]
      | some q => armed ⟨.filling, 2, q, blockOf ps q, []⟩ [read (.slotA 1) first, read (.slotB 2) q] := by
  intro read start armed
  simp only [useHeader, hfirst, Bool.false_eq_true, if_false]
  cases nextItem ps first with
  | none => simp only [fillA, queueRead, State.modCsq, hport]; rfl
  | some q => simp only [fillA, fillB, queueRead, State.modCsq, hport]; rfl

/-- R40: a gate in its lead-in is not ready. -/
theorem gateCheck_leadIn {s : State}
    (h : ∀ g, s.gtu.gate = some g → g.phase ≠ .standing ∨ (g.number = some 0 ∧ g.leadIn ≠ none)) : gateCheck s = s := by
  cases hg : s.gtu.gate with
  | none => simp only [gateCheck, hg]
  | some g =>
    refine gateCheck_not hg ?_
    rcases h g hg with hphase | ⟨hnumber, hlead⟩
    · simp [gateReady, hphase]
    · have hsome : g.leadIn.isNone = false := by
        rw [Option.isNone_eq_false_iff]
        exact Option.isSome_iff_ne_none.mpr hlead
      simp [gateReady, hnumber, hsome]

/-- R40: at gate 0, its lead-in over, a first block held makes the station ready. -/
theorem gateCheck_zero {g : GateRec} {sl : CueSlot} {s : State} (hg : s.gtu.gate = some g) (hphase : g.phase = .standing)
    (hnumber : g.number = some 0) (hlead : g.leadIn = none) (hparts : s.csq.parts ≠ none)
    (hslot : slotOf s 1 = some sl) (hready : sl.state = .ready) (hroom : s.bus.queue.length < 8) :
    gateCheck s = readyAt g s := by
  refine gateCheck_ready hg ?_ hroom
  have hheld : firstCueHeld s = true := by
    unfold firstCueHeld
    cases s.csq.play.pos <;> simp [itemHeld, hslot, hready]
  rw [gateReady_zero hnumber hphase hlead, hheld, Bool.and_true, Option.isSome_iff_ne_none]
  exact hparts

/-! ## BAD blocks passed (R61, R62) -/

/-- What a cursor finds by the slot that holds its item. -/
theorem cueView_congr_slot {a b : State} {c : Cursor} (hparts : a.csq.parts = b.csq.parts)
    (hbuiltin : a.csq.builtin = b.csq.builtin) (hbell : a.bel.hourBell = b.bel.hourBell)
    (hslot : slotOf a c.item = slotOf b c.item) : cueView a c = cueView b c := by
  have hpartsOf : partsOf a = partsOf b := by rw [partsOf, hparts, partsOf]
  unfold cueView builtinCue
  rw [hbuiltin, hbell, hslot, hpartsOf]

/-- R55, R59: what the end of a header read leads to. -/
theorem headerReads {t : Nat} {r : PortRead} {d : List Byte} {s : State} (hlive : Live t s) (hrest : ZonesAtRest s)
    (hport : s.csq.port = [r]) (huse : r.use = .header) (haddr : r.addr + 204 ≤ 16777216)
    (htime : r.started + 416 ≤ t) (hlen : d.length = 204) :
    let u := { s with now := t, csq := { s.csq with port := [] } }
    (∀ ps, wordSum d % 65536 = 0 → (∃ b ∈ d, b ≠ 0xFF) →
      parseHeader ((s.iml.header.map (·.libSize)).getD 0) d = some ps →
      exec (.headerReadDone t d) s = .next (settleZones trialFuel (gateCheck (useHeader ps false u))))
    ∧ (r.attempt = 1 → (wordSum d % 65536 ≠ 0 ∨ ∀ b ∈ d, b = 0xFF) →
      exec (.headerReadDone t d) s = .next { s with
        now := t, csq := { s.csq with port := [{ r with attempt := 2, started := t }] } })
    ∧ ((∃ b ∈ d, b ≠ 0xFF) → (if wordSum d % 65536 = 0 then
          parseHeader ((s.iml.header.map (·.libSize)).getD 0) d = none else r.attempt ≠ 1) →
      exec (.headerReadDone t d) s = .next (settleZones trialFuel (withdrawShow .armingFailed (markBad u))))
    ∧ ((∀ b ∈ d, b = 0xFF) → r.attempt ≠ 1 →
      exec (.headerReadDone t d) s = .next (settleZones trialFuel (stopUnmuted u))) := by
  intro u
  have hpast : readPast r = false := by
    rw [readPast, huse]
    exact decide_eq_false (not_lt.mpr haddr)
  have hbytes : d.length = readLen r.use := by rw [huse]; exact hlen
  have hsum : sumGood r.use d = decide (wordSum d % 65536 = 0) := by
    rw [huse]
    exact Bool.beq_eq_decide_eq _ _
  have hpop : popRead { s with now := t } = u := by simp only [popRead, State.modCsq, hport]; rfl
  have hexec : exec (.headerReadDone t d) s = .next (settleZones trialFuel (headerRead r d { s with now := t })) := by
    calc exec (.headerReadDone t d) s
        = event t (fun s => settleZones trialFuel (headerReadEnds d s)) s := rfl
      _ = _ := by rw [event_live hlive, headerReadEnds_head (s := { s with now := t }) hport huse htime]
  have hgood : wordSum d % 65536 = 0 → (∃ b ∈ d, b ≠ 0xFF) →
      headerRead r d { s with now := t } = match parseHeader ((s.iml.header.map (·.libSize)).getD 0) d with
        | some ps => gateCheck (useHeader ps false u)
        | none => withdrawShow .armingFailed (markBad u) := by
    intro hzero hanswers
    have hjudged : judgeRead r d = .good := by
      rw [judgeRead_answers hpast hbytes hanswers, hsum, decide_eq_true hzero]
      rfl
    simp only [headerRead, hjudged, hpop, headerGood, readBytes_self 204 d hlen]
    rfl
  refine ⟨fun ps hzero hanswers hparse => ?_, fun hfirst hfails => ?_, fun hanswers hfails => ?_,
    fun hsilent hsecond => ?_⟩
  · rw [hexec, hgood hzero hanswers, hparse]
  · have hfails' : sumGood r.use d = false ∨ ∀ b ∈ d, b = 0xFF :=
      hfails.imp_left fun h => by rw [hsum]; exact decide_eq_false h
    have hretry : retryRead { s with now := t } = { s with
        now := t, csq := { s.csq with port := [{ r with attempt := 2, started := t }] } } := by
      simp only [retryRead, State.modCsq, hport]
    rw [hexec, headerRead_retry (judgeRead_fails hpast hbytes hfails') hfirst, hretry, settleZones_rest (by exact hrest)]
  · split at hfails
    · next hzero => rw [hexec, hgood hzero hanswers, hfails]
    · next hnonzero =>
      have hjudged : judgeRead r d = .badSum := by
        rw [judgeRead_answers hpast hbytes hanswers, hsum, decide_eq_false hnonzero]
        rfl
      rw [hexec, headerRead_bad hjudged hfails, hpop]
      rfl
  · rw [hexec, headerRead_silent (judgeRead_silent hpast hbytes hsilent) hsecond, hpop]

/-- The port queue once its head read is over. -/
def nextRead (t : Nat) : List PortRead → List PortRead
  | [] => []
  | q :: m => { q with started := t } :: m

/-- R59, R62: what the end of a block read leads to, its slot waiting for its item. -/
theorem blockReads {t : Nat} {r : PortRead} {l : List PortRead} {d : List Byte} {sl : CueSlot} {s : State}
    (hlive : Live t s) (hrest : ZonesAtRest s) (hport : s.csq.port = r :: l) (huse : r.use ≠ .header)
    (haddr : r.addr + 258 ≤ 16777216) (htime : r.started + 524 ≤ t) (hlen : d.length = 258)
    (hslot : slotFor s r.use = some sl) :
    let u := { s with now := t, csq := { s.csq with port := nextRead t l } }
    let good := byteSum (d.take 256) % 65536 = le16 d 256 ∧ ∃ b ∈ d, b ≠ 0xFF
    let fails := byteSum (d.take 256) % 65536 ≠ le16 d 256 ∧ (∃ b ∈ d, b ≠ 0xFF) ∧ r.attempt ≠ 1
    (good → exec (.blockReadDone t d) s = .next (settleZones trialFuel (pump (gateCheck
      (putSlot r.use { sl with state := .ready, cues := parseBlock d } u)))))
    ∧ (fails → ¬(s.she.engine = .arming ∧ sl.item = 1) → exec (.blockReadDone t d) s =
      .next (settleZones trialFuel (pump (gateCheck (markBad (putSlot r.use { sl with state := .bad } u))))))
    ∧ (fails → s.she.engine = .arming ∧ sl.item = 1 → exec (.blockReadDone t d) s =
      .next (settleZones trialFuel (withdrawShow .armingFailed (markBad (putSlot r.use { sl with state := .bad } u)))))
    ∧ ((∀ b ∈ d, b = 0xFF) → r.attempt ≠ 1 → exec (.blockReadDone t d) s =
      .next (settleZones trialFuel (stopUnmuted (putSlot r.use CueSlot.vacant u))))
    ∧ ((byteSum (d.take 256) % 65536 ≠ le16 d 256 ∨ ∀ b ∈ d, b = 0xFF) → r.attempt = 1 →
      exec (.blockReadDone t d) s = .next { s with
        now := t, csq := { s.csq with port := { r with attempt := 2, started := t } :: l } }) := by
  intro u good fails
  have hlength : readLen r.use = 258 := by
    cases h : r.use with
    | header => exact absurd h huse
    | slotA item => rfl
    | slotB item => rfl
  have hpast : readPast r = false := by
    rw [readPast, hlength]
    exact decide_eq_false (not_lt.mpr haddr)
  have hsum : sumGood r.use d = decide (byteSum (d.take 256) % 65536 = le16 d 256) := by
    cases h : r.use with
    | header => exact absurd h huse
    | slotA item => exact Bool.beq_eq_decide_eq _ _
    | slotB item => exact Bool.beq_eq_decide_eq _ _
  have hbytes : d.length = readLen r.use := hlen.trans hlength.symm
  have hpop : popRead { s with now := t } = u := by
    simp only [popRead, State.modCsq, hport, List.tail_cons]
    cases l <;> rfl
  have hexec : exec (.blockReadDone t d) s = .next (settleZones trialFuel (blockRead r d { s with now := t })) := by
    calc exec (.blockReadDone t d) s
        = event t (fun s => settleZones trialFuel (blockReadEnds d s)) s := rfl
      _ = _ := by rw [event_live hlive, blockReadEnds_head (s := { s with now := t }) hport huse htime]
  have hslot' : slotFor { s with now := t } r.use = some sl := by
    cases h : r.use <;> rw [h] at hslot <;> exact hslot
  have hbad : fails → blockRead r d { s with now := t } = blockFails r.use sl u := by
    rintro ⟨hnonzero, hanswers, hsecond⟩
    have hjudged : judgeRead r d = .badSum := by
      rw [judgeRead_answers hpast hbytes hanswers, hsum, decide_eq_false hnonzero]
      rfl
    rw [blockRead_bad hjudged hsecond hslot', hpop]
  refine ⟨fun ⟨hzero, hanswers⟩ => ?_, fun hfails hnot => ?_, fun hfails harming => ?_, fun hsilent hsecond => ?_,
    fun hfails hfirst => ?_⟩
  · have hjudged : judgeRead r d = .good := by
      rw [judgeRead_answers hpast hbytes hanswers, hsum, decide_eq_true hzero]
      rfl
    rw [hexec, blockRead_good hjudged hslot', hpop, blockGood, readBytes_self 258 d hlen]
  · rw [hexec, hbad hfails, blockFails]
    exact congrArg Host.Outcome.next (congrArg _ (if_neg hnot))
  · rw [hexec, hbad hfails, blockFails]
    exact congrArg Host.Outcome.next (congrArg _ (if_pos harming))
  · rw [hexec, blockRead_silent (judgeRead_silent hpast hbytes hsilent) hsecond hslot', hpop]
  · have hfails' : sumGood r.use d = false ∨ ∀ b ∈ d, b = 0xFF :=
      hfails.imp_left fun h => by rw [hsum]; exact decide_eq_false h
    have hretry : retryRead { s with now := t } = { s with
        now := t, csq := { s.csq with port := { r with attempt := 2, started := t } :: l } } := by
      simp only [retryRead, State.modCsq, hport]
    rw [hexec, blockRead_retry (judgeRead_fails hpast hbytes hfails') hfirst, hretry, settleZones_rest (by exact hrest)]

/-! ## Pointers past what they skip (R58, R62, R68) -/

/-- R58: a cue that fails its checks is skipped, a strike by the lead pointer's count alone. -/
theorem playMove_invalid {p : Pos} {q : Cue} {s : State} (hcue : cueView s s.csq.play = .cue p q)
    (hinvalid : cueValid s (partsOf s) p s.csq.play.prev q = false) :
    playMove s = some (setPlay (s.csq.play.step (partsOf s) s.csq.play.prev)
      (if isStrikeKind q then s else skipInvalid s)) := by
  simp only [playMove, hcue, hinvalid, if_true]

theorem playMove_bad {s : State} (hbad : cueView s s.csq.play = .badBlock) :
    playMove s = some (setPlay (s.csq.play.skipItem (partsOf s)) s) := by
  simp only [playMove, hbad]

theorem leadMove_bad {s : State} (hbad : cueView s s.csq.lead = .badBlock) :
    leadMove s = some (setLead (s.csq.lead.skipItem (partsOf s)) s) := by
  simp only [leadMove, hbad]

/-- A fault raised and the Cue Sequencer changed, in either order. -/
theorem raiseFault_setCsq (c : FaultCode) (d : Nat) (s : State) (x : Csq) :
    raiseFault c d { s with csq := x } = { raiseFault c d s with csq := x } := by
  have hreports : reportsFault { s with csq := x } c d = reportsFault s c d := rfl
  have hlength : (recordFault c d { s with csq := x }).bus.queue.length = (recordFault c d s).bus.queue.length := rfl
  simp only [raiseFault, hreports, hlength]
  split
  · split <;> rfl
  · rfl

theorem isStrikeKind_iff {q : Cue} : isStrikeKind q = true ↔ q.kind = 1 ∨ q.kind = 3 := by
  simp [isStrikeKind]

/-- The play pointer's cue as the waits are ended: the same. -/
theorem endWaits_view (v : State) : SameView v (endWaits v) := ⟨rfl, rfl, rfl, rfl, rfl, rfl, rfl⟩

/-- R58, R68: where the beat clock stands, the play pointer at rest, or making one move to where it rests. -/
theorem pump_stands {v w : State} {c : Cursor} (hstands : v.csq.running = false)
    (hcase : w = v ∧ (c = v.csq.play
        ∨ ∃ p q, cueView v v.csq.play = .cue p q ∧ if cueValid v (partsOf v) p v.csq.play.prev q = true then
            (q.kind = 1 ∨ q.kind = 3 ∨ (q.kind = 7 ∧ p ∈ v.csq.gatesDone))
              ∧ c = v.csq.play.step (partsOf v) (some q.tick)
          else (q.kind = 1 ∨ q.kind = 3) ∧ c = v.csq.play.step (partsOf v) v.csq.play.prev)
      ∨ w = raiseFault .cueOrder ((v.she.showRec.map (·.prog)).getD 0) v
        ∧ ∃ p q, cueView v v.csq.play = .cue p q ∧ cueValid v (partsOf v) p v.csq.play.prev q = false
          ∧ q.kind ≠ 1 ∧ q.kind ≠ 3 ∧ c = v.csq.play.step (partsOf v) v.csq.play.prev)
    (hplay : PlayRests v c) (hlead : LeadRests v v.csq.lead) (hslots : NoSlotLeft v c) :
    ∃ wait, pump v = standsAt c wait w := by
  have hview := endWaits_view v
  have hcue : ∀ {p q}, cueView v v.csq.play = .cue p q → cueView (endWaits v) (endWaits v).csq.play = .cue p q :=
    fun h => (hview.cueView _).trans h
  have hvalid : ∀ {p q b}, cueValid v (partsOf v) p v.csq.play.prev q = b →
      cueValid (endWaits v) (partsOf (endWaits v)) p (endWaits v).csq.play.prev q = b :=
    fun h => (hview.cueValid ..).trans h
  have hstep : ∀ prev, Cursor.step (partsOf (endWaits v)) prev (endWaits v).csq.play
      = { v.csq.play.step (partsOf v) prev with waiting := none } :=
    fun prev => step_waiting (partsOf v) prev none v.csq.play
  have hself : SameView v v := ⟨rfl, rfl, rfl, rfl, rfl, rfl, rfl⟩
  rcases hcase with ⟨rfl, rfl | ⟨p, q, hc, hmove⟩⟩ | ⟨rfl, p, q, hc, hinvalid, h1, h3, rfl⟩
  · exact pump_rests hstands hplay hlead hslots
  · split at hmove
    · next hok =>
      obtain ⟨hkind, rfl⟩ := hmove
      refine pump_moves hstands hself rfl rfl (step_item ..) ?_ hplay hlead hslots
      have htaken : isStrikeKind q = true ∨ (q.kind = 7 ∧ p ∈ (endWaits w).csq.gatesDone) := by
        rw [isStrikeKind_iff, or_assoc]
        exact hkind
      rw [playMove_taken (hcue hc) (hvalid hok) htaken, hstep]
    · next hfails =>
      obtain ⟨hkind, rfl⟩ := hmove
      refine pump_moves hstands hself rfl rfl (step_item ..) ?_ hplay hlead hslots
      rw [playMove_invalid (hcue hc) (hvalid (Bool.eq_false_iff.mpr hfails)), if_pos (isStrikeKind_iff.mpr hkind)]
      exact congrArg some (congrArg (setPlay · _) (hstep _))
  · have hcsq : (raiseFault .cueOrder ((v.she.showRec.map (·.prog)).getD 0) v).csq = v.csq := raiseFault_csq ..
    have hraised : SameView v (raiseFault .cueOrder ((v.she.showRec.map (·.prog)).getD 0) v) :=
      ⟨congrArg Csq.parts hcsq, congrArg Csq.builtin hcsq, congrArg Csq.slotA hcsq, congrArg Csq.slotB hcsq,
        congrArg Csq.gatesDone hcsq, congrArg Bel.hourBell (raiseFault_bel ..),
        congrArg Chr.channels (raiseFault_chr ..)⟩
    refine pump_moves hstands hraised (congrArg Csq.lead hcsq) (congrArg Csq.running hcsq) (step_item ..) ?_ hplay
      hlead hslots
    have hother : ¬isStrikeKind q = true := fun h => (isStrikeKind_iff.mp h).elim h1 h3
    have hskip : skipInvalid (endWaits v) = endWaits (raiseFault .cueOrder ((v.she.showRec.map (·.prog)).getD 0) v) := by
      have hends : ∀ u : State, u.csq = v.csq → endWaits u = { u with csq := (endWaits v).csq } := by
        intro u hu
        simp only [endWaits, State.modCsq, hu]
      calc skipInvalid (endWaits v)
          = raiseFault .cueOrder (progNo v) { v with csq := (endWaits v).csq } := rfl
        _ = { raiseFault .cueOrder (progNo v) v with csq := (endWaits v).csq } := raiseFault_setCsq ..
        _ = _ := (hends _ hcsq).symm
    rw [playMove_invalid (hcue hc) (hvalid hinvalid), if_neg hother, hskip]
    exact congrArg some (congrArg (setPlay · _) (hstep _))

theorem skipItem_waiting (ps : List Part) (wait : Option Nat) (c : Cursor) :
    Cursor.skipItem ps { c with waiting := wait } = { c.skipItem ps with waiting := wait } := by
  rcases c with ⟨_ | p, item, last, old⟩
  · rfl
  · simp only [Cursor.skipItem]
    cases nextItem ps p <;> rfl

theorem cueView_bad_pos {s : State} {c : Cursor} (h : cueView s c = .badBlock) : c.pos ≠ none := by
  intro hpos
  simp [cueView, hpos] at h

/-- What a pointer past a BAD block finds does not depend on the block's slot. -/
theorem playRests_congr {a b : State} {c : Cursor} (hcue : cueView a c = cueView b c) (hparts : partsOf a = partsOf b)
    (hchannels : a.chr.channels = b.chr.channels) (hgates : a.csq.gatesDone = b.csq.gatesDone) (h : PlayRests b c) :
    PlayRests a c := by
  have hvalid : ∀ ps p prev q, cueValid a ps p prev q = cueValid b ps p prev q := by
    intro ps p prev q
    unfold cueValid fieldsValid chanRec
    rw [hchannels]
  simpa only [PlayRests, hcue, hparts, hvalid, hgates] using h

theorem leaveSlots_nothing {s : State} (h : ∀ sl ∈ [s.csq.slotA, s.csq.slotB], slotLeft s sl = false) (n : Nat) :
    leaveSlots n s = s := by
  cases n with
  | zero => rfl
  | succ n => simp [leaveSlots, h s.csq.slotA (by simp), h s.csq.slotB (by simp)]

/-- A slot of an item the trailing pointer has not passed, or EMPTY, is not left. -/
theorem slotLeft_not {s : State} {sl : CueSlot} (h : sl.state = .empty ∨ trailingItem s ≤ sl.item) :
    slotLeft s sl = false := by
  rcases h with hempty | hitem
  · simp [slotLeft, hempty]
  · simp [slotLeft, hitem]

/-- R61: the slot that both pointers have left, no item two on for it, is EMPTY; the other one is not left. -/
theorem leaveSlots_vacates {s : State} (inB : Bool) {n : Nat}
    (hleft : slotLeft s (if inB then s.csq.slotB else s.csq.slotA) = true)
    (hother : slotLeft s (if inB then s.csq.slotA else s.csq.slotB) = false)
    (hnone : (nextItem (partsOf s) (if inB then s.csq.slotB else s.csq.slotA).pos).bind (nextItem (partsOf s)) = none) :
    leaveSlots (n + 1) s = { s with csq := { s.csq with
      slotA := if inB then s.csq.slotA else CueSlot.vacant
      slotB := if inB then CueSlot.vacant else s.csq.slotB } } := by
  have hvacant : ∀ u : State, slotLeft u CueSlot.vacant = false := fun u => slotLeft_not (.inl rfl)
  cases inB with
  | false =>
    simp only [Bool.false_eq_true, if_false] at hleft hother hnone ⊢
    have htaken : takenSlot (partsOf s) s.csq.slotA = CueSlot.vacant := by simp only [takenSlot, hnone]
    have hleave : leaveA s = { s with csq := { s.csq with slotA := CueSlot.vacant } } := by
      simp only [leaveA, htaken, State.modCsq]
      rfl
    rw [leaveSlots, if_pos ⟨hleft, .inl hother⟩, hleave]
    refine leaveSlots_nothing (fun sl hsl => ?_) n
    simp only [List.mem_cons, List.not_mem_nil, or_false] at hsl
    rcases hsl with rfl | rfl
    · exact hvacant _
    · exact hother
  | true =>
    simp only [if_true] at hleft hother hnone ⊢
    have htaken : takenSlot (partsOf s) s.csq.slotB = CueSlot.vacant := by simp only [takenSlot, hnone]
    have hleave : leaveB s = { s with csq := { s.csq with slotB := CueSlot.vacant } } := by
      simp only [leaveB, htaken, State.modCsq]
      rfl
    rw [leaveSlots, if_neg (by simp [hother]), if_pos hleft, hleave]
    refine leaveSlots_nothing (fun sl hsl => ?_) n
    simp only [List.mem_cons, List.not_mem_nil, or_false] at hsl
    rcases hsl with rfl | rfl
    · exact hother
    · exact hvacant _

/-- R61, R62: both pointers past a BAD block: at the first cue of the next item, the block's slot EMPTY. -/
theorem pump_passesBad (inB : Bool) {v : State} (hstands : v.csq.running = false)
    (hplayBad : cueView v v.csq.play = .badBlock) (hleadBad : cueView v v.csq.lead = .badBlock) :
    let sl := if inB then v.csq.slotB else v.csq.slotA
    let other := if inB then v.csq.slotA else v.csq.slotB
    let c := v.csq.play.skipItem (partsOf v)
    let w := { v with csq := { v.csq with
      lead := v.csq.lead.skipItem (partsOf v), slotA := if inB then v.csq.slotA else CueSlot.vacant
      slotB := if inB then CueSlot.vacant else v.csq.slotB } }
    sl.state = .bad → sl.item = v.csq.play.item → sl.item = v.csq.lead.item →
    (nextItem (partsOf v) sl.pos).bind (nextItem (partsOf v)) = none →
    (other.state = .empty ∨ sl.item < other.item) →
    PlayRests w c → LeadRests w w.csq.lead → ∃ wait, pump v = standsAt c wait w := by
  intro sl other c w hbad hplayItem hleadItem hnone hother hplay hlead
  let c' : Cursor := { c with waiting := none }
  let l' : Cursor := { w.csq.lead with waiting := none }
  let e := endWaits v
  let x := setPlay c' e
  let y := setLead l' x
  let z : State := { y with csq := { y.csq with slotA := w.csq.slotA, slotB := w.csq.slotB } }
  have hnextPlay : c.item = sl.item + 1 := by rw [skipItem_next (cueView_bad_pos hplayBad), hplayItem]
  have hnextLead : w.csq.lead.item = sl.item + 1 := by
    rw [show w.csq.lead = v.csq.lead.skipItem (partsOf v) from rfl, skipItem_next (cueView_bad_pos hleadBad), hleadItem]
  have hotherLeft : ∀ {u : State}, trailingItem u ≤ sl.item + 1 → slotLeft u other = false :=
    fun htrail => slotLeft_not (hother.imp_right htrail.trans)
  have hslots : ∀ {u : State}, u.csq.slotA = v.csq.slotA → u.csq.slotB = v.csq.slotB → trailingItem u ≤ sl.item →
      ∀ n, leaveSlots n u = u := by
    refine fun {u} hA hB htrail => leaveSlots_nothing fun k hk => ?_
    have hk' : k = sl ∨ k = other := by
      rw [hA, hB] at hk
      cases inB <;> simpa [sl, other, or_comm] using hk
    rcases hk' with rfl | rfl
    · exact slotLeft_not (.inr htrail)
    · exact hotherLeft (htrail.trans (Nat.le_succ _))
  have hslotOf : ∀ {u : State}, u.csq.slotA = v.csq.slotA → u.csq.slotB = v.csq.slotB →
      slotOf u (sl.item + 1) = slotOf w (sl.item + 1) := by
    intro u hA hB
    cases inB <;> simp [slotOf, hA, hB, w, sl, CueSlot.vacant]
  have hmovePlay : playMove e = some x := by
    rw [playMove_bad (s := e) hplayBad]
    exact congrArg some (congrArg (setPlay · e) (skipItem_waiting ..))
  have hmoveLead : leadMove x = some y := by
    rw [leadMove_bad (s := x) hleadBad]
    exact congrArg some (congrArg (setLead · x) (skipItem_waiting ..))
  have hrestPlay : playMove x = none := by
    have hcue : cueView x c = cueView w c :=
      cueView_congr_slot rfl rfl rfl (by rw [hnextPlay]; exact hslotOf rfl rfl)
    exact playMove_rests (w := x) (playRests_congr (c := c) hcue rfl rfl rfl hplay) rfl
  have hleave : ∀ n, leaveSlots (n + 1) y = z := by
    intro n
    have htrail : trailingItem y = sl.item + 1 := by
      rw [trailingItem, show y.csq.play.item = c.item from rfl, show y.csq.lead.item = w.csq.lead.item from rfl,
        hnextPlay, hnextLead, min_self]
    have hleft : slotLeft y sl = true := by simp [slotLeft, hbad, htrail]
    exact leaveSlots_vacates (s := y) inB hleft (hotherLeft htrail.le) hnone
  have hrests : ∀ n, pumpLoop n z = markWaiting z := by
    have hview : SameView w z := ⟨rfl, rfl, rfl, rfl, rfl, rfl, rfl⟩
    exact pumpLoop_rests (s := z) hstands rfl (hview.playRests (c := c') hplay) (hview.leadRests (c := l') hlead)
  obtain ⟨wait, hwait⟩ := markWaiting_standsAt (c := c) (w := w) (x := z) ⟨rfl, rfl, rfl, rfl, rfl, rfl, rfl⟩ rfl
  refine ⟨wait, ?_⟩
  have hslotsE : ∀ n, leaveSlots n e = e := hslots rfl rfl ((min_le_left _ _).trans hplayItem.ge)
  have hslotsX : ∀ n, leaveSlots n x = x := hslots rfl rfl ((min_le_right _ _).trans hleadItem.ge)
  obtain ⟨n, hn⟩ := lookFuel_pos e
  obtain ⟨k, hk⟩ := lookFuel_pos y
  rw [pump, if_neg (by simp [hstands]), stand, movePointers, hslotsE, hn, show 2 * (n + 1) = 2 * n + 1 + 1 by ring,
    pumpLoop, hmovePlay]
  simp only [hslotsX]
  rw [pumpLoop, hrestPlay, hmoveLead]
  simp only [hk, hleave]
  rw [hrests, hwait]

/-- R54, R59: the withdrawal of a programme marked bad in ARMING, the zones at rest. -/
theorem markBad_settles {v : State} (hrest : ZonesAtRest v) (hengine : v.she.engine = .arming) (hsends : Sends v)
    (hnone : ∀ f, figRec v f = none) (hroom : v.bus.queue.length < 6) :
    settleZones trialFuel (withdrawShow .armingFailed (markBad v)) = withdrawnFrom .armingFailed (markBad v) := by
  rw [withdrawShow_markBad hengine hsends hnone hroom,
    settleZones_rest (withdrawnFrom_atRest .armingFailed (markBad_atRest hrest))]

/-- R59, R166: the stop of a station whose cue memory is silent, the zones at rest. -/
theorem silent_settles {v : State} (hrest : ZonesAtRest v) (hengine : v.she.engine ∈ [Engine.arming, .gateWait, .running])
    (hin : v.iml.station = .inService) (hnone : ∀ f, figRec v f = none) (hroom : v.bus.queue.length < 6) :
    settleZones trialFuel (stopUnmuted v) = withdrawnFrom .stopped
      { raiseFault .imageUnreadable 0 v with iml := { v.iml with station := .stopped, muted := false } } := by
  rw [stopUnmuted_eq v hengine hin hnone hroom, settleZones_rest (silent_atRest hrest)]

/-- Settles O38: the reads by `headerReads` and `blockReads`, the pointers by `pump_stands` and `pump_passesBad`. -/
theorem programmeReadsFillPartsAndSlots : Obligations.ProgrammeReadsFillPartsAndSlots := by
  unfold Obligations.ProgrammeReadsFillPartsAndSlots
  intro bad silent
  refine ⟨?_, ?_, fun v w c hstands => pump_stands hstands, fun inB v hstands => pump_passesBad inB hstands⟩
  · intro t r d s hlive hrest hport huse haddr htime hlen
    obtain ⟨hgood, hretry, hfails, hsilent⟩ := headerReads hlive hrest hport huse haddr htime hlen
    refine ⟨?_, hretry, fun hanswers hwhy harming hsends hnone hroom => ?_, fun hall hsecond harming hin hnone hroom => ?_⟩
    · intro ps g first hsum hanswers hparse hfirst hg hphase hnumber hlead read start armed
      let u : State := { s with now := t, csq := { s.csq with port := [] } }
      have hused := useHeader_eq (s := u) hfirst rfl
      have hkept : (useHeader ps false u).gtu = s.gtu ∧ (useHeader ps false u).zon = s.zon := by
        rw [hused]
        cases nextItem ps first <;> exact ⟨rfl, rfl⟩
      obtain ⟨hgtu, hzon⟩ := hkept
      have hgate : gateCheck (useHeader ps false u) = useHeader ps false u := by
        refine gateCheck_leadIn fun k hk => ?_
        rw [hgtu, hg] at hk
        cases hk
        exact .inr ⟨hnumber, hlead⟩
      have hrestU : ZonesAtRest (useHeader ps false u) := by unfold ZonesAtRest; rw [hzon]; exact hrest
      rw [hgood ps hsum hanswers hparse, hgate, settleZones_rest hrestU, hused] <;> rfl
    · exact (hfails hanswers hwhy).trans (congrArg Host.Outcome.next (markBad_settles
        (v := { s with now := t, csq := { s.csq with port := [] } }) hrest harming hsends hnone hroom))
    · exact (hsilent hall hsecond).trans (congrArg Host.Outcome.next (silent_settles
        (v := { s with now := t, csq := { s.csq with port := [] } }) hrest (by simp [harming]) hin hnone hroom))
  · intro t item r l d inB s hlive hrest hport huse haddr htime hlen
      sl popped put filled here good fails hfilling hitem
    have hslot : slotFor s r.use = some sl := by
      rw [huse]
      cases inB
      · exact if_pos ⟨hfilling, hitem⟩
      · exact if_pos ⟨hfilling, hitem⟩
    have hother : r.use ≠ .header := by rw [huse]; cases inB <;> simp
    have hput : ∀ x, putSlot r.use x { s with now := t, csq := { s.csq with port := nextRead t l } } = put x := by
      intro x
      rw [huse]
      cases inB <;> cases l <;> rfl
    have hbad : ∀ x, markBad (put x) = bad s (put x) := fun _ => rfl
    obtain ⟨hgood, hfails, harms, hsilent, hretry⟩ := blockReads hlive hrest hport hother haddr htime hlen hslot
    simp only [hput, hbad] at hgood hfails harms hsilent
    have hkept : ∀ {v : State}, (good ∧ v = filled
        ∨ fails ∧ ¬(s.she.engine = .arming ∧ item = 1) ∧ v = bad s (put { sl with state := .bad })) →
        v.gtu = s.gtu ∧ v.bus.queue.length ≤ s.bus.queue.length + 1 := by
      rintro v (⟨-, rfl⟩ | ⟨-, -, rfl⟩)
      · exact ⟨rfl, Nat.le_succ _⟩
      · obtain ⟨hgtu, -, -, hqueue⟩ := markBad_fields (put { sl with state := .bad })
        exact ⟨hgtu, hqueue⟩
    refine ⟨fun v hv => ⟨?_, ?_, fun g hg hroom => ⟨?_, ?_⟩⟩, fun hwhy harming hfirst hsends hnone hroom => ?_,
      fun hall hsecond hengine hin hnone hroom => ?_, hretry⟩
    · rcases hv with ⟨hgoodRead, rfl⟩ | ⟨hfailed, hnot, rfl⟩
      · exact hgood hgoodRead
      · exact hfails hfailed (by rwa [hitem])
    · intro hgate
      refine gateCheck_leadIn fun k hk => hgate k ?_
      rw [← (hkept hv).1]
      exact hk
    · intro hgoodRead hhere hparts hphase hnumber hlead
      obtain rfl : v = filled := hv.elim (·.2) fun h => absurd hgoodRead.1 h.1.1
      have hslotOf : ∃ x, slotOf filled 1 = some x ∧ x.state = .ready := by
        obtain ⟨hfirst, hfree⟩ := hhere
        have hone : sl.item = 1 := hitem.trans hfirst
        cases inB with
        | false => exact ⟨_, if_pos ⟨by simp [filled, put], hone⟩, rfl⟩
        | true =>
          refine ⟨_, (if_neg ?_).trans (if_pos ⟨by simp [filled, put], hone⟩), rfl⟩
          rintro ⟨hused, hsame⟩
          exact (hfree rfl).elim (fun h => hused h) fun h => h hsame
      obtain ⟨x, hx, hready⟩ := hslotOf
      exact gateCheck_zero (s := filled) hg hphase hnumber hlead hparts hx hready (hroom.trans (by decide))
    · have hgv : v.gtu.gate = some g := by rw [(hkept hv).1]; exact hg
      exact meetsR42_ready hgv ((hkept hv).2.trans_lt (by omega))
    · exact (harms hwhy ⟨harming, hitem.trans hfirst⟩).trans (congrArg Host.Outcome.next
        (markBad_settles (v := put { sl with state := .bad }) hrest harming hsends hnone hroom))
    · exact (hsilent hall hsecond).trans (congrArg Host.Outcome.next
        (silent_settles (v := put CueSlot.vacant) hrest hengine hin hnone hroom))

end Sys2Proof.Machine

/-! SUPPORT. Proofs about figures: timers, the jam-homing wait, sensors (chapters 6 and 8). -/

namespace Sys2Proof.Machine

/-! ## One figure's record written -/

/-- `s` with the record of figure `f` set. -/
def putRun (f : Nat) (x : FigRun) (s : State) : State := { s with fig := { s.fig with run := s.fig.run.set f x } }

theorem modFigRun_eq_putRun (f : Nat) (g : FigRun → FigRun) (s : State) :
    modFigRun f g s = putRun f (g (figRun s f)) s := rfl

theorem setDuty_eq_putRun (f d : Nat) (s : State) :
    setDuty f d s = putRun f ((figRun s f).withDuty s.now (jamTime s f) d) s := rfl

theorem figRun_putRun {f : Nat} {x : FigRun} {s : State} (hf : f < s.fig.run.length) : figRun (putRun f x s) f = x := by
  simp [figRun, putRun, List.getD_eq_getElem?_getD, hf]

theorem putRun_putRun (f : Nat) (x y : FigRun) (s : State) : putRun f y (putRun f x s) = putRun f y s := by
  simp only [putRun, List.set_set]

theorem putRun_length (f : Nat) (x : FigRun) (s : State) : (putRun f x s).fig.run.length = s.fig.run.length :=
  List.length_set

/-- R103, R108: the duty worked again at a figure whose record is written: no overtravel begins. -/
theorem applyDuty_putRun {f : Nat} {x : FigRun} {s : State} (hf : f < s.fig.run.length)
    (hfree : x.duty = 0 → x.lastOut = true → limitActive s f = false) :
    applyDuty f (putRun f x s)
      = putRun f (x.withDuty s.now (jamTime s f) (workDuty (putRun f x s) f)) s := by
  have hnot : ¬((figRun (putRun f x s) f).duty = 0 ∧ 0 < workDuty (putRun f x s) f
      ∧ (figRun (putRun f x s) f).lastOut = true ∧ limitActive (putRun f x s) f = true) := by
    rw [figRun_putRun hf]
    rintro ⟨hduty, -, hout, hactive⟩
    have hinactive : limitActive (putRun f x s) f = false := hfree hduty hout
    rw [hinactive] at hactive
    cases hactive
  simp only [applyDuty, if_neg hnot]
  rw [setDuty_eq_putRun, figRun_putRun hf, putRun_putRun]
  rfl

theorem jamTime_of {f : Nat} {c : FigRec} {s : State} (hc : figRec s f = some c) : jamTime s f = c.jamMs := by
  rw [jamTime, hc]
  rfl

/-- A motor that starts: its jam timer starts with it. -/
theorem withDuty_starts {now jamMs d : Nat} {x : FigRun} (hoff : x.duty = 0) (hd : 0 < d) :
    x.withDuty now jamMs d = { x with duty := d, jam := some (now + jamMs * 1000) } := by
  simp [FigRun.withDuty, hoff, Nat.ne_of_gt hd]

/-- A motor that stays off. -/
theorem withDuty_off {now jamMs : Nat} {x : FigRun} (hoff : x.duty = 0) :
    x.withDuty now jamMs 0 = { x with jam := none } := by
  rcases x with ⟨⟩
  simp_all [FigRun.withDuty]

/-- R103: a duty not capped to 0 stays above 0. -/
theorem sagCap_pos {rail : RailState} {d : Nat} (hrail : rail ≠ .cut) (hd : 0 < d) : 0 < sagCap rail d := by
  cases rail with
  | normal => exact hd
  | sag => exact lt_min hd (by decide)
  | cut => exact absurd rfl hrail

theorem moveDuty_pos {c : FigRec} {r : RunRec} {pos : Nat} (hcreep : 0 < c.creep) : 0 < moveDuty c r pos := by
  unfold moveDuty
  split
  · exact hcreep
  · exact lt_max_of_lt_left hcreep

/-- R103: a leg that is driven has a duty above 0, the rail not CUT. -/
theorem workDuty_pos {f : Nat} {c : FigRec} {r : RunRec} {s : State} (hc : figRec s f = some c)
    (hrun : (figRun s f).run = some r) (hhold : (figRun s f).hold = none)
    (hdriven : (figRun s f).state = .moving ∨ ((figRun s f).state = .homing ∧ r.phase ≠ .claim))
    (hrail : s.chr.rail ≠ .cut) (hcreep : 0 < c.creep) : 0 < workDuty s f := by
  rcases hdriven with hstate | ⟨hstate, hphase⟩
  · cases hk : r.kind <;> simp only [workDuty, hc, hrun, hhold, hstate, hk] <;>
      exact sagCap_pos hrail (by first | exact moveDuty_pos hcreep | exact hcreep)
  · cases hp : r.phase with
    | claim => exact absurd hp hphase
    | seek => simp only [workDuty, hc, hrun, hhold, hstate, hp]; exact sagCap_pos hrail hcreep
    | toPark => simp only [workDuty, hc, hrun, hhold, hstate, hp]; exact sagCap_pos hrail hcreep

/-- R104: the leg's direction set and its duty applied. -/
theorem driveLeg_eq {f : Nat} {r : RunRec} {s : State} (hrun : (figRun s f).run = some r) :
    driveLeg f s = applyDuty f (putRun f { figRun s f with hold := none, lastOut := r.outward } s) := by
  rw [driveLeg, modFigRun_eq_putRun]
  simp only [hrun, Option.map_some, Option.getD_some]

/-! ## Timers (R104, R107, R109, R112) -/

/-- Settles O49. -/
theorem figureTimersExpire : Obligations.FigureTimersExpire := by
  intro t f e s hlive hdue q put
  let u : State := { s with now := t }
  have hexpired : ∀ timer : Option Nat, timer = some e → expired timer t = true := by
    rintro _ rfl
    exact decide_eq_true hdue
  have hput : ∀ x, put x = putRun f x u := fun _ => rfl
  refine ⟨fun hcoast => ?_, fun c r hc hhold hstate hrun hkind hduty hrail hfree hcreep => ?_,
    fun c r hc hhold hstate hrun hduty hrail hout hactive hcreep => ?_, fun hjam hstate => ?_, fun r hrun hlimit => ?_⟩
  · have hexec : exec (.coastTimerExpiry t f) s = .next (coastOut f u) := event_live hlive _
    rw [hexec, coastOut, if_pos (show expired (figRun u f).coast u.now = true from hexpired _ hcoast)]
    rfl
  · have hf : f < u.fig.run.length := fig_range (s := u) fun h => by
      rw [show figRun u f = q from rfl] at h
      simp [h, FigRun.reset] at hhold
    have hexec : exec (.reversalHoldExpiry t f) s = .next (holdOut f u) := event_live hlive _
    let x : FigRun := { q with hold := none, lastOut := r.outward }
    have hdrive : driveLeg f u = applyDuty f (putRun f x u) := driveLeg_eq (s := u) hrun
    have hworked : workDuty (putRun f x u) f = c.creep := by
      have hx : figRun (putRun f x u) f = x := figRun_putRun hf
      simp only [workDuty, show figRec (putRun f x u) f = some c from hc, hx, show x.run = some r from hrun,
        show x.hold = none from rfl, show x.state = .moving from hstate, hkind,
        show (putRun f x u).chr.rail = .normal from hrail]
      rfl
    have hlimit : x.duty = 0 → x.lastOut = true → limitActive u f = false := fun _ hout => by
      rcases hfree with hin | hinactive
      · rw [show x.lastOut = r.outward from rfl, hin] at hout
        cases hout
      · exact hinactive
    rw [hexec, holdOut, if_pos (show expired (figRun u f).hold u.now = true from hexpired _ hhold), hdrive, applyDuty_putRun hf hlimit, hworked,
      withDuty_starts (x := x) hduty hcreep, jamTime_of (s := u) hc, hput]
  · have hf : f < u.fig.run.length := fig_range (s := u) fun h => by
      rw [show figRun u f = q from rfl] at h
      simp [h, FigRun.reset] at hhold
    have hexec : exec (.reversalHoldExpiry t f) s = .next (holdOut f u) := event_live hlive _
    let x : FigRun := { q with hold := none, lastOut := true }
    have hdrive : driveLeg f u = applyDuty f (putRun f x u) := by
      rw [driveLeg_eq (s := u) hrun, hout]
      rfl
    have hx : figRun (putRun f x u) f = x := figRun_putRun hf
    have hpos : 0 < workDuty (putRun f x u) f :=
      workDuty_pos (s := putRun f x u) (c := c) (r := r) hc (by rw [hx]; exact hrun) (by rw [hx])
        (by rw [hx]; exact hstate) hrail hcreep
    generalize hd : workDuty (putRun f x u) f = d at hpos
    have hover : applyDuty f (putRun f x u) = overtravel f (putRun f (x.withDuty t c.jamMs d) u) := by
      have hbegins : (figRun (putRun f x u) f).duty = 0 ∧ 0 < workDuty (putRun f x u) f
          ∧ (figRun (putRun f x u) f).lastOut = true ∧ limitActive (putRun f x u) f = true := by
        rw [hx, hd]
        exact ⟨hduty, hpos, rfl, hactive⟩
      simp only [applyDuty, if_pos hbegins]
      rw [setDuty_eq_putRun, hx, putRun_putRun, hd, jamTime_of (s := putRun f x u) hc]
      rfl
    have hdriven : (figRun (putRun f (x.withDuty t c.jamMs d) u) f).state ∈ [.moving, .homing] := by
      rw [figRun_putRun hf]
      change q.state ∈ _
      rcases hstate with h | ⟨h, -⟩ <;> simp [h]
    rw [hexec, holdOut, if_pos (show expired (figRun u f).hold u.now = true from hexpired _ hhold), hdrive, hover, overtravel_eq hdriven]
    exact congrArg Host.Outcome.next (driveBreaks_halted (t := t) .overtravel (s := u) hf rfl)
  · have hf : f < u.fig.run.length := fig_range (s := u) fun h => by
      rw [show figRun u f = q from rfl] at h
      simp [h, FigRun.reset] at hjam
    have hexec : exec (.jamTimerExpiry t f) s = .next (jamOut f u) := event_live hlive _
    obtain ⟨hmoving, hhoming⟩ := driveBreaks_eq .figureJam (s := u) hf
    rw [hexec, jamOut, if_pos (show expired (figRun u f).jam u.now = true from hexpired _ hjam), jamExpires]
    simp only [List.mem_cons, List.not_mem_nil, or_false] at hstate
    rcases hstate with h | h
    · simp only [show (figRun u f).state = .moving from h]
      rw [hmoving h]
    · simp only [show (figRun u f).state = .homing from h]
      rw [hhoming h]
  · have hexec : exec (.homingLimitExpiry t f) s = .next (homingLimitOut f u) := event_live hlive _
    have hlimitOut : limitExpired u f = true := by
      simp only [limitExpired, show (figRun u f).run = some r from hrun, hlimit]
      exact decide_eq_true hdue
    rw [hexec, homingLimitOut, if_pos hlimitOut, failHoming, motorOff, modFigRun_mod]
    rfl

/-! ## Requests granted and tried at the end of a step (R120, R122) -/

/-- One grant waiting: it is handed over. -/
theorem settleZones_grant {f n : Nat} {s : State} (hrest : ZonesAtRest s) :
    settleZones (n + 1) { s with zon := { s.zon with granted := [f] } } = settleZones n (figGranted s f) := by
  have hzon : ({ s.zon with granted := [] } : Zon) = s.zon := by rw [← hrest.2]
  have hstate : ({ s with zon := { s.zon with granted := [] } } : State) = s := by rw [hzon]
  have hhanded : handGrants { s with zon := { s.zon with granted := [f] } } = figGranted s f := by
    rw [← hstate]
    rfl
  rw [settleZones, if_pos (.inr (List.cons_ne_nil f [])), if_neg (by simp [hrest.1]), hhanded]

/-- One request waiting, all its zones FREE: it is claimed, and nothing further is due. -/
theorem settleZones_claim {n : Nat} {r : ZoneReq} {s : State} (hgranted : s.zon.granted = [])
    (hdue : s.zon.trialDue = true) (hreq : s.zon.reqs = [r]) (hwaits : r.state = .waiting) (hzones : r.zones ≠ [])
    (hfree : ∀ z ∈ r.zones, zoneAt s z = .free) (hroom : s.bus.queue.length < 8) :
    settleZones (n + 1) s = { s with
      zon := { s.zon with
        trialDue := false
        view := s.zon.view.mapIdx fun z x =>
          if z ∈ r.zones then .pending (ownNo s) s.bus.nextId none (some r.figure) else x
        reqs := [{ r with state := .claiming s.bus.nextId }] }
      bus := s.bus.queued (.claim false (Bits.ofList 64 r.zones)) } := by
  have hclaims := tryList_one s r hreq hwaits hzones hfree hroom
  have hhanded : handGrants (tryList s) = tryList s := by
    rw [hclaims]
    simp only [handGrants, hgranted, List.foldl_nil, State.modZon]
  rw [settleZones, if_pos (.inl hdue), if_pos hdue, hhanded, hclaims]
  refine settleZones_rest ?_ n
  exact ⟨rfl, hgranted⟩

/-- R112, step 1: SEEK begins at a figure that stands inward, its home sensor not active. -/
theorem figGranted_seeks {f : Nat} {c : FigRec} {r : RunRec} {x : FigRun} {s : State} (hf : f < s.fig.run.length)
    (hc : figRec s f = some c) (hx : x.state = .homing) (hrun : x.run = some r) (hphase : r.phase = .claim)
    (hresume : r.resume = .seek) (hoff : x.duty = 0) (hin : x.lastOut = false) (hhome : homeActive s f = false)
    (hrail : s.chr.rail = .normal) (hcreep : 0 < c.creep) (hlimit : r.limit = .off) :
    figGranted (putRun f x s) f = putRun f { x with
      hold := none, duty := c.creep, jam := some (s.now + c.jamMs * 1000)
      run := some { r with
        phase := .seek, limit := .runs (s.now + c.homingS * 1000000), outward := false } } s := by
  rcases x with ⟨state, pos, lastOut, duty, coast, jam, hold, jamWait, showMove, run⟩
  rcases r with ⟨kind, waypoints, leg, scale, zones, outward, phase, resume, limit, fromJam⟩
  dsimp only at hx hrun hphase hresume hoff hin hlimit
  subst hx hrun hphase hresume hoff hin hlimit
  let run : RunRec := ⟨kind, waypoints, leg, scale, zones, false, .seek, .seek, .runs (s.now + c.homingS * 1000000),
    fromJam⟩
  let y : FigRun := ⟨.homing, pos, false, 0, coast, jam, none, jamWait, showMove, some run⟩
  have hrec : ∀ z, figRec (putRun f z s) f = some c := fun _ => hc
  have hrailX : ∀ z, (putRun f z s).chr.rail ≠ .cut := fun z => by
    rw [show (putRun f z s).chr.rail = .normal from hrail]
    decide
  have hhomeX : ∀ z, homeActive (putRun f z s) f = false := fun _ => hhome
  have hseeks : figGranted (putRun f ⟨.homing, pos, false, 0, coast, jam, hold, jamWait, showMove,
      some ⟨kind, waypoints, leg, scale, zones, outward, .claim, .seek, .off, fromJam⟩⟩ s) f
        = applyDuty f (putRun f y s) := by
    simp only [figGranted, figRun_putRun hf, hrec, if_true, limitAtGrant, if_neg (hrailX _), modRun,
      modFigRun_eq_putRun, putRun_putRun, seek, hhomeX, headFor, Bool.false_eq_true, if_false, Option.map_some]
    rfl
  have hworked : workDuty (putRun f y s) f = c.creep := by
    simp only [workDuty, show figRec (putRun f y s) f = some c from hc, figRun_putRun hf,
      show (putRun f y s).chr.rail = .normal from hrail]
    rfl
  have hnotOut : y.duty = 0 → y.lastOut = true → limitActive s f = false := fun _ hout => Bool.noConfusion hout
  rw [hseeks, applyDuty_putRun hf hnotOut, hworked, withDuty_starts (x := y) rfl hcreep, jamTime_of hc]

/-- Settles O50. -/
theorem jamWaitEndsInHoming : Obligations.JamWaitEndsInHoming := by
  intro t f e c s hlive hrest hdue hc q hwait hstate hoff run put
  let u : State := { s with now := t }
  have hf : f < u.fig.run.length := jamWait_range (s := u) hwait
  have hput : ∀ x, put x = putRun f x u := fun _ => rfl
  have hexec : exec (.jamHomingWaitExpiry t f) s = .next (settleZones trialFuel (jamWaitEnds f u)) := by
    have hexpired : jamWaitExpired u f = true := by
      simp only [jamWaitExpired, show (figRun u f).jamWait = .until e from hwait]
      exact decide_eq_true hdue
    calc exec (.jamHomingWaitExpiry t f) s
        = event t (fun s => settleZones trialFuel (jamWaitOut f s)) s := rfl
      _ = _ := by rw [event_live hlive, jamWaitOut, if_pos hexpired]
  let waited : FigRun := { q with jamWait := .none }
  have hends : ¬Sends s → jamWaitEnds f u = putRun f waited u := by
    intro hsilent
    have hmay : ¬((figRun u f).state = .jammed ∧ maySend u = true) :=
      fun h => hsilent ((maySend_iff (s := u)).mp h.2)
    simp only [jamWaitEnds, if_neg hmay]
    rfl
  let begun : FigRun := { q with
    state := .homing, jamWait := .none, hold := none, duty := 0, jam := none, run := some (run .claim .off) }
  have hbegins : Sends s → jamWaitEnds f u = requestRun false f c.homingZones (putRun f begun u) := by
    intro hsends
    have hmay : (figRun u f).state = .jammed ∧ maySend u = true := ⟨hstate, (maySend_iff (s := u)).mpr hsends⟩
    have hwaited : figRun (putRun f waited u) f = waited := figRun_putRun hf
    simp only [jamWaitEnds, if_pos hmay]
    rw [modFigRun_eq_putRun]
    change beginHoming f (putRun f waited u) = _
    rw [beginHoming_jammed (s := putRun f waited u) hc (by rw [hwaited]; exact hstate) (by rw [hwaited]; exact hoff),
      hwaited]
    exact congrArg (requestRun false f c.homingZones) (putRun_putRun f waited begun u)
  refine ⟨fun hsilent => ?_, fun hsends hnone hhome hin hrail hcreep => ?_, fun hsends hzones hfree hreqs hroom => ?_⟩
  · rw [hexec, hends hsilent, settleZones_rest (by exact hrest), hput]
  · have hgranted : requestRun false f c.homingZones (putRun f begun u)
        = { putRun f begun u with zon := { s.zon with granted := [f] } } := by
      rw [requestRun, if_pos hnone, State.modZon, show (putRun f begun u).zon = s.zon from rfl, hrest.2]
      rfl
    have hseeks := figGranted_seeks (s := u) (x := begun) hf hc rfl rfl rfl rfl rfl hin hhome hrail hcreep rfl
    have hsettles : settleZones trialFuel (requestRun false f c.homingZones (putRun f begun u))
        = settleZones 15 (figGranted (putRun f begun u) f) := by
      rw [hgranted]
      exact settleZones_grant (n := 15) (s := putRun f begun u) hrest
    rw [hexec, hbegins hsends, hsettles, hseeks, settleZones_rest (by exact hrest), hput]
  · intro v
    have hasks : requestRun false f c.homingZones (putRun f begun u) = { putRun f begun u with
        zon := { s.zon with trialDue := true, reqs := [⟨f, c.homingZones, .waiting⟩] } } := by
      rw [requestRun, if_neg hzones, enterRequest, withdrawRequest_idle f _ (by
        intro r hr
        rw [show (putRun f begun u).zon.reqs = [] from hreqs] at hr
        cases hr)]
      simp only [oweTrial, State.modZon, show (putRun f begun u).zon = s.zon from rfl, hreqs]
      rfl
    have hsettles := settleZones_claim (n := 15) (r := ⟨f, c.homingZones, .waiting⟩)
      (s := { putRun f begun u with
        zon := { s.zon with trialDue := true, reqs := [⟨f, c.homingZones, .waiting⟩] } }) hrest.2 rfl rfl rfl hzones
      hfree hroom
    rw [hexec, hbegins hsends, hasks]
    refine congrArg Host.Outcome.next (hsettles.trans ?_)
    simp only [v, put, hrest.1]
    rfl

/-! ## Sensors (R108, R112, R140) -/

/-- What the end of a sensor's filter period leaves: its filtered level is the pin's. -/
def formedAt (n : Nat) (s : State) : State :=
  { s with chr := { s.chr with
    sensors := s.chr.sensors.set n { sensRun s n with filtered := some (sensRun s n).pin, timer := none } } }

theorem sensRun_formedAt {n : Nat} {s : State} (hn : n < s.chr.sensors.length) : sensRun (formedAt n s) n
    = { sensRun s n with filtered := some (sensRun s n).pin, timer := none } := by
  simp [sensRun, formedAt, List.getD_eq_getElem?_getD, hn]

theorem sensorActive_of {n : Nat} {active : Bool} {s : State}
    (hkind : sensRec s n = .home active ∨ sensRec s n = .limit active) :
    sensorActive s n = ((sensRun s n).filtered == some active) := by
  rcases hkind with h | h <;> simp only [sensorActive, h]

/-- R140: a HOME or LIMIT sensor's filter runs out: does it become active. -/
theorem becomesActive_iff {n : Nat} {active : Bool} {s : State} (hn : n < s.chr.sensors.length)
    (hkind : sensRec s n = .home active ∨ sensRec s n = .limit active) :
    (sensorActive s n = false ∧ sensorActive (formedAt n s) n = true)
      ↔ (sensRun s n).pin = active ∧ (sensRun s n).filtered ≠ some active := by
  rw [sensorActive_of hkind, sensorActive_of (s := formedAt n s) hkind, sensRun_formedAt hn]
  simp [and_comm]

/-- R108: the limit sensor of a figure becomes active. -/
theorem filterExpires_limit {n f : Nat} {active : Bool} {c : FigRec} {s : State} (hn : n < s.chr.sensors.length)
    (hkind : sensRec s n = .limit active) (hpin : (sensRun s n).pin = active)
    (hnew : (sensRun s n).filtered ≠ some active) (hf : f ≤ 6) (hc : figRec s f = some c) (hlimit : c.limit = some n)
    (hothers : ∀ g ≤ 6, ∀ k, figRec s g = some k → k.limit = some n → g = f) :
    filterExpires n s = limitBecomesActive f (formedAt n s) := by
  have hfigs : figsWith s (fun c => c.limit == some n) = [f] :=
    figsWith_single s _ f c hf hc (by simp [hlimit]) fun g hg k hk hp => hothers g hg k hk (by simpa using hp)
  have hactive := (becomesActive_iff hn (.inr hkind)).mpr ⟨hpin, hnew⟩
  change (if sensorActive s n = false ∧ sensorActive (formedAt n s) n = true then _ else _) = _
  rw [if_pos hactive]
  simp only [hkind, hfigs, List.foldl_cons, List.foldl_nil]
  rfl

/-- R112: the home sensor of a figure becomes active. -/
theorem filterExpires_home {n f : Nat} {active : Bool} {c : FigRec} {s : State} (hn : n < s.chr.sensors.length)
    (hkind : sensRec s n = .home active) (hpin : (sensRun s n).pin = active)
    (hnew : (sensRun s n).filtered ≠ some active) (hf : f ≤ 6) (hc : figRec s f = some c) (hhome : c.home = n)
    (hothers : ∀ g ≤ 6, ∀ k, figRec s g = some k → k.home = n → g = f) :
    filterExpires n s = homeBecomesActive f (formedAt n s) := by
  have hfigs : figsWith s (fun c => c.home == n) = [f] :=
    figsWith_single s _ f c hf hc (by simp [hhome]) fun g hg k hk hp => hothers g hg k hk (by simpa using hp)
  have hactive := (becomesActive_iff hn (.inl hkind)).mpr ⟨hpin, hnew⟩
  change (if sensorActive s n = false ∧ sensorActive (formedAt n s) n = true then _ else _) = _
  rw [if_pos hactive]
  simp only [hkind, hfigs, List.foldl_cons, List.foldl_nil]
  rfl

theorem filterExpires_quiet {n : Nat} {active : Bool} {s : State} (hn : n < s.chr.sensors.length)
    (hkind : sensRec s n = .home active ∨ sensRec s n = .limit active)
    (hquiet : (sensRun s n).pin ≠ active ∨ (sensRun s n).filtered = some active) :
    filterExpires n s = formedAt n s := by
  have hnot : ¬(sensorActive s n = false ∧ sensorActive (formedAt n s) n = true) := by
    rw [becomesActive_iff hn hkind]
    rintro ⟨hpin, hnew⟩
    exact hquiet.elim (fun h => h hpin) hnew
  change (if sensorActive s n = false ∧ sensorActive (formedAt n s) n = true then _ else _) = _
  rw [if_neg hnot]
  rfl

/-- R112, step 2: SEEK ends at the home sensor: the leg to the park position begins with a reversal hold. -/
theorem homeBecomesActive_seeks {f : Nat} {r : RunRec} {s : State} (hf : f < s.fig.run.length)
    (hstate : (figRun s f).state = .homing) (hrun : (figRun s f).run = some r) (hphase : r.phase = .seek)
    (hpark : 0 < r.waypoint.1) : homeBecomesActive f s = putRun f { figRun s f with
      pos := 0, duty := 0, jam := none, hold := some (s.now + 50000)
      coast := if 0 < (figRun s f).duty then some (s.now + 200000) else (figRun s f).coast
      run := some { r with phase := .toPark, limit := .off, outward := true } } s := by
  have hfound : homeBecomesActive f s = homeFound f s := by simp only [homeBecomesActive, hstate, hrun, hphase, if_true]
  have hpark' : ¬(RunRec.waypoint { r with phase := .toPark, limit := .off }).1 = 0 := Nat.ne_of_gt hpark
  rw [hfound]
  simp only [homeFound, headToPark, modFigRun_eq_putRun, figRun_putRun hf, hrun, Option.map_some, if_neg hpark',
    holdFor, modRun, putRun_putRun, setDuty_eq_putRun]
  simp [FigRun.withDuty, putRun]

/-- Settles O47. -/
theorem sensorPinsAreFiltered : Obligations.SensorPinsAreFiltered := by
  refine ⟨fun t n high s hnow => ?_, fun t n e active s hlive hrest htimer hdue => ?_⟩
  · have hat : s.at t = { s with now := t } := by rw [State.at, max_eq_right hnow]
    have hexec : exec (.sensorPinChange t n high) s = .next (pinChange n high { s with now := t }) := by
      rw [← hat]
      rfl
    rw [hexec]
    refine congrArg Host.Outcome.next ?_
    by_cases hpin : (sensRun s n).pin = high
    · rw [if_pos hpin]
      have hsame : s.chr.sensors.set n (sensRun s n) = s.chr.sensors := set_getD_self ..
      simp only [pinChange, modSensor, State.modChr]
      change ({ s with now := t, chr := { s.chr with
        sensors := s.chr.sensors.set n (if (sensRun s n).pin = high then sensRun s n else _) } } : State) = _
      rw [if_pos hpin, hsame]
    · rw [if_neg hpin]
      simp only [pinChange, modSensor, State.modChr]
      change ({ s with now := t, chr := { s.chr with
        sensors := s.chr.sensors.set n (if (sensRun s n).pin = high then sensRun s n else { sensRun s n with
          pin := high, timer := (filterUs (sensRec s n)).map fun d => t + d }) } } : State) = _
      rw [if_neg hpin]
      cases sensRec s n <;> rfl
  · intro formed
    let u : State := { s with now := t }
    have hformed : formedAt n u = formed := rfl
    have hn : n < u.chr.sensors.length := sensor_timer_range (s := u) htimer
    have hout : (sensRec s n = .home active ∨ sensRec s n = .limit active) →
        sensorFilterOut n u = filterExpires n u := by
      intro hkind
      have hexpired : expired (sensRun u n).timer u.now = true := by
        rw [show (sensRun u n).timer = some e from htimer]
        exact decide_eq_true hdue
      rcases hkind with h | h <;> simp only [sensorFilterOut, show sensRec u n = _ from h, hexpired, if_true]
    refine ⟨fun hkind hquiet => ?_, fun f c hkind hpin hnew hf hc hlimit hothers => ?_,
      fun f c r hkind hpin hnew hf hc hhome hothers hstate hrun hphase hpark => ?_⟩
    · exact zoneEvent_of hlive hrest (sensorFilterOut n)
        ((hout hkind).trans (filterExpires_quiet (s := u) hn hkind hquiet)) rfl
    · have hlimits : sensorFilterOut n u = limitBecomesActive f formed :=
        (hout (.inr hkind)).trans (filterExpires_limit (s := u) hn hkind hpin hnew hf hc hlimit hothers)
      intro driven
      refine ⟨fun hdriven => ?_, fun hnot => ?_⟩
      · refine zoneEvent_atRest hlive (sensorFilterOut n) (hlimits.trans ?_) (driveBreaks_rest _ _ _ hrest)
        rw [limitBecomesActive, if_pos ⟨hdriven.1, hdriven.2.1⟩, overtravel_eq (s := formed) hdriven.2.2]
      · refine zoneEvent_of hlive hrest (sensorFilterOut n) (hlimits.trans ?_) rfl
        rw [limitBecomesActive]
        split
        · next hdrives =>
          have hstate : (figRun formed f).state ∉ [FigState.moving, .homing] := fun h => hnot ⟨hdrives.1, hdrives.2, h⟩
          unfold overtravel
          cases h : (figRun formed f).state <;> simp_all
        · rfl
    · have hf' : f < formed.fig.run.length := fig_range (s := formed) fun h => by
        rw [show figRun formed f = figRun s f from rfl] at h
        simp [h, FigRun.reset] at hstate
      refine zoneEvent_of hlive hrest (sensorFilterOut n) ?_ rfl
      rw [hout (.inl hkind), filterExpires_home (s := u) hn hkind hpin hnew hf hc hhome hothers]
      exact homeBecomesActive_seeks (s := formed) hf' hstate hrun hphase hpark

end Sys2Proof.Machine

/-! SUPPORT. Proofs about encoder edges (chapter 6). -/

namespace Sys2Proof.Machine

/-! ## Zones released along a run (R105, R128) -/

/-- `s` after these zones, held for a figure, have begun to be released: their RELEASE is queued. -/
def releaseOf (zones : List Nat) (s : State) : State :=
  { s with
    zon := { s.zon with view := s.zon.view.mapIdx fun z e => if z ∈ zones then .held (ownNo s) none else e }
    bus := if zones = [] then s.bus else s.bus.queued (.release (Bits.ofList 64 zones)) }

theorem releaseAsk_releaseOf (f : Nat) (zones : List Nat) {s : State} (hsends : Sends s) (hroom : s.bus.queue.length < 8)
    (hquiet : ∀ g ∈ s.bus.queue, ∀ z, g.content ≠ .claim true z) :
    releaseAsk f zones s = releaseOf (zones.filter (heldFor s f)) s := releaseAsk_eq f zones s hsends hroom hquiet

theorem putRun_releaseOf (f : Nat) (x : FigRun) (zones : List Nat) (s : State) :
    putRun f x (releaseOf zones s) = releaseOf zones (putRun f x s) := rfl

theorem figRun_releaseOf (f : Nat) (zones : List Nat) (s : State) : figRun (releaseOf zones s) f = figRun s f := rfl

/-! ## Duties of a drive that goes on (R103) -/

/-- A motor that goes on at another duty. -/
theorem withDuty_runs {now jamMs d : Nat} {x : FigRun} (hon : 0 < x.duty) (hd : 0 < d) :
    x.withDuty now jamMs d = { x with duty := d } := by
  simp [FigRun.withDuty, Nat.ne_of_gt hon, Nat.ne_of_gt hd]

/-- A motor that stops begins to coast. -/
theorem withDuty_stops {now jamMs : Nat} {x : FigRun} (hon : 0 < x.duty) :
    x.withDuty now jamMs 0 = { x with duty := 0, coast := some (now + 200000), jam := none } := by
  simp [FigRun.withDuty, hon]

/-- R103: the duty of a figure in motion worked again: no overtravel begins. -/
theorem applyDuty_runs {f d : Nat} {x : FigRun} {s : State} (hf : f < s.fig.run.length) (hon : 0 < x.duty) (hd : 0 < d) (hworked : workDuty (putRun f x s) f = d) :
    applyDuty f (putRun f x s) = putRun f { x with duty := d } s := by
  rw [applyDuty_putRun hf fun hoff => absurd hoff (Nat.ne_of_gt hon), hworked, withDuty_runs hon hd]

/-- R103: the duty of a move run, the rail NORMAL. -/
theorem workDuty_move {f : Nat} {c : FigRec} {r : RunRec} {x : FigRun} {s : State} (hf : f < s.fig.run.length)
    (hc : figRec s f = some c) (hstate : x.state = .moving) (hrun : x.run = some r) (hkind : r.kind = .move)
    (hhold : x.hold = none) (hrail : s.chr.rail = .normal) : workDuty (putRun f x s) f = moveDuty c r x.pos := by
  simp only [workDuty, show figRec (putRun f x s) f = some c from hc, figRun_putRun hf, hrun, hhold, hstate, hkind,
    show (putRun f x s).chr.rail = .normal from hrail]
  rfl

/-- R103: the duty of a park or homing run, the rail NORMAL. -/
theorem workDuty_creep {f : Nat} {c : FigRec} {r : RunRec} {x : FigRun} {s : State} (hf : f < s.fig.run.length)
    (hc : figRec s f = some c) (hdriven : (x.state = .moving ∧ r.kind ≠ .move) ∨ (x.state = .homing ∧ r.phase = .toPark))
    (hrun : x.run = some r) (hhold : x.hold = none) (hrail : s.chr.rail = .normal) :
    workDuty (putRun f x s) f = c.creep := by
  rcases hdriven with ⟨hstate, hkind⟩ | ⟨hstate, hphase⟩
  · cases hk : r.kind with
    | move => exact absurd hk hkind
    | park =>
      simp only [workDuty, show figRec (putRun f x s) f = some c from hc, figRun_putRun hf, hrun, hhold, hstate, hk,
        show (putRun f x s).chr.rail = .normal from hrail]
      rfl
    | homing =>
      simp only [workDuty, show figRec (putRun f x s) f = some c from hc, figRun_putRun hf, hrun, hhold, hstate, hk,
        show (putRun f x s).chr.rail = .normal from hrail]
      rfl
  · simp only [workDuty, show figRec (putRun f x s) f = some c from hc, figRun_putRun hf, hrun, hhold, hstate, hphase,
      show (putRun f x s).chr.rail = .normal from hrail]
    rfl

/-! ## Edges (R107, R108) -/

theorem edgeCounted_iff {x : FigRun} : edgeCounted x = true ↔ 0 < x.duty ∨ x.hold ≠ none ∨ x.coast ≠ none := by
  simp [edgeCounted, or_assoc, Option.isSome_iff_ne_none]

theorem edgeSelected_iff {edge : EdgeSel} {rising : Bool} : edgeSelected edge rising = true ↔
    edge = .both ∨ (edge = .rising ∧ rising = true) ∨ (edge = .falling ∧ rising = false) := by
  cases edge <;> simp [edgeSelected]

/-- R107: an edge counted, short of an overtravel. -/
theorem encoderEdge_counted {f : Nat} {c : FigRec} {s : State} (hc : figRec s f = some c)
    (hcounted : edgeCounted (figRun s f) = true)
    (hfree : (figRun s f).lastOut = false ∨ (figRun s f).duty = 0 ∨ (figRun s f).pos < c.travelMax) :
    encoderEdge f s = afterEdge f c (putRun f { figRun s f with
      pos := countPos c.travelMax (figRun s f)
      jam := if 0 < (figRun s f).duty then some (s.now + c.jamMs * 1000) else (figRun s f).jam } s) := by
  have hnot : ¬((figRun s f).lastOut = true ∧ 0 < (figRun s f).duty ∧ c.travelMax ≤ (figRun s f).pos) := by
    rintro ⟨hout, hon, hend⟩
    rcases hfree with h | h | h
    · simp [h] at hout
    · omega
    · omega
  simp only [encoderEdge, hc, hcounted, if_true, if_neg hnot]
  rfl

theorem encoderEdge_uncounted {f : Nat} {c : FigRec} {s : State} (hc : figRec s f = some c)
    (hnot : ¬edgeCounted (figRun s f) = true) : encoderEdge f s = s := by
  simp only [encoderEdge, hc, if_neg hnot]

/-- R108: an edge counted at travel max while the figure is driven OUTWARD. -/
theorem encoderEdge_overtravel {f : Nat} {c : FigRec} {s : State} (hc : figRec s f = some c)
    (hout : (figRun s f).lastOut = true) (hon : 0 < (figRun s f).duty) (hend : c.travelMax ≤ (figRun s f).pos) :
    encoderEdge f s = overtravel f s := by
  have hcounted : edgeCounted (figRun s f) = true := edgeCounted_iff.mpr (.inl hon)
  simp only [encoderEdge, hc, hcounted, if_true]
  exact if_pos ⟨hout, hon, hend⟩

/-- R141: what the end of an encoder's filter period leads to. -/
theorem encoderFilterOut_eq {n f e : Nat} {edge : EdgeSel} {c : FigRec} {s : State}
    (htimer : (sensRun s n).timer = some e) (hdue : e ≤ s.now) (hkind : sensRec s n = .encoder edge) (hf : f ≤ 6)
    (hc : figRec s f = some c) (hencoder : c.encoder = n)
    (hothers : ∀ g ≤ 6, ∀ k, figRec s g = some k → k.encoder = n → g = f) :
    encoderFilterOut n s = if (sensRun s n).filtered = some (!(sensRun s n).pin)
        ∧ (edge = .both ∨ (edge = .rising ∧ (sensRun s n).pin = true) ∨ (edge = .falling ∧ (sensRun s n).pin = false))
      then encoderEdge f (formedAt n s) else formedAt n s := by
  have hfigs : figsWith s (fun c => c.encoder == n) = [f] :=
    figsWith_single s _ f c hf hc (by simp [hencoder]) fun g hg k hk hp => hothers g hg k hk (by simpa using hp)
  have hexpired : expired (sensRun s n).timer s.now = true := by
    rw [htimer]
    exact decide_eq_true hdue
  simp only [encoderFilterOut, hkind, hexpired, if_true, encoderExpires, edgeSelected_iff, hfigs, List.foldl_cons,
    List.foldl_nil]
  rfl

/-! ## Waypoints passed, arrivals (R104 to R106, R115, R116) -/

theorem modFigRun_putRun {f : Nat} {g : FigRun → FigRun} {x : FigRun} {s : State} (hf : f < s.fig.run.length) :
    modFigRun f g (putRun f x s) = putRun f (g x) s := by
  rw [modFigRun_eq_putRun, figRun_putRun hf, putRun_putRun]

theorem modFigRun_released {f : Nat} {g : FigRun → FigRun} {x : FigRun} {zones : List Nat} {s : State}
    (hf : f < s.fig.run.length) :
    modFigRun f g (releaseOf zones (putRun f x s)) = releaseOf zones (putRun f (g x) s) := by
  rw [modFigRun_eq_putRun, figRun_releaseOf, figRun_putRun hf, putRun_releaseOf, putRun_putRun]

/-- R105: the zones of an index of the run released, at a figure whose record is written. -/
theorem releaseIndex_putRun {f i : Nat} {r : RunRec} {x : FigRun} {s : State} (hf : f < s.fig.run.length)
    (hsends : Sends s) (hroom : s.bus.queue.length < 8) (hquiet : ∀ g ∈ s.bus.queue, ∀ z, g.content ≠ .claim true z) :
    releaseIndex f i r (putRun f x s)
      = releaseOf (((r.zones.filter fun z => z.2 == i).map (·.1)).filter (heldFor s f))
        (putRun f { x with run := x.run.map fun r => { r with zones := r.zones.filter fun z => z.2 != i } } s) := by
  rw [releaseIndex, modRun, modFigRun_putRun hf]
  exact releaseAsk_releaseOf f _ (s := putRun f _ s) hsends hroom hquiet

/-- R106: a move run arrives. -/
theorem arrive_move {f : Nat} {r : RunRec} {x : FigRun} {s : State} (hf : f < s.fig.run.length) (hkind : r.kind = .move)
    (hsends : Sends s) (hroom : s.bus.queue.length < 8) (hquiet : ∀ g ∈ s.bus.queue, ∀ z, g.content ≠ .claim true z) :
    arrive f r (putRun f x s) =
      let stood := releaseOf (((r.zones.filter fun z => z.2 == r.leg).map (·.1)).filter (heldFor s f))
        (putRun f { x with
          duty := 0, coast := some (s.now + 200000), jam := none, hold := none, run := none, state := .parked } s)
      if s.she.engine = .settling then parkCheck f stood else endMove f stood := by
  simp only [arrive, hkind, motorOff, modFigRun_putRun hf]
  rw [releaseIndex_putRun hf hsends hroom hquiet, modFigRun_released hf]
  rfl

/-- R106, R115, R112: a park or homing run arrives: every zone held for its figure is released. -/
theorem arrive_other {f : Nat} {r : RunRec} {x : FigRun} {s : State} (hf : f < s.fig.run.length)
    (hkind : r.kind ≠ .move) (hsends : Sends s) (hroom : s.bus.queue.length < 8)
    (hquiet : ∀ g ∈ s.bus.queue, ∀ z, g.content ≠ .claim true z) :
    arrive f r (putRun f x s) = releaseOf ((List.range 64).filter (heldFor s f))
      (putRun f { x with
        duty := 0, coast := some (s.now + 200000), jam := none, hold := none, run := none, state := .parked } s) := by
  have hall : ∀ v : State, v.zon = s.zon → v.iml = s.iml → (heldZones v f).filter (heldFor v f)
      = (List.range 64).filter (heldFor s f) := by
    intro v hzon himl
    have hheld : heldFor v f = heldFor s f := by
      funext z
      rw [heldFor, zoneAt, ownNo, hzon, himl, heldFor, zoneAt, ownNo]
    rw [heldZones, zonesWhere, List.filter_filter, hheld]
    simp
  have harrives : arrive f r (putRun f x s) = modFigRun f (fun q => { q with run := none, state := .parked })
      (releaseAsk f (heldZones (motorOff f (putRun f x s)) f) (motorOff f (putRun f x s))) := by
    cases hk : r.kind with
    | move => exact absurd hk hkind
    | park => simp only [arrive, hk]
    | homing => simp only [arrive, hk]
  rw [harrives, motorOff, modFigRun_putRun hf,
    releaseAsk_releaseOf f _ (s := putRun f _ s) hsends hroom hquiet, modFigRun_released hf,
    hall (putRun f _ s) rfl rfl]
  rfl

/-- R116: the end of a show move is reported, at a figure whose record is written. -/
theorem endMove_released {f : Nat} {x : FigRun} {zones : List Nat} {s : State} (hf : f < s.fig.run.length) :
    endMove f (releaseOf zones (putRun f x s)) =
      if x.showMove then gateCheck (releaseOf zones (putRun f { x with showMove := false } s))
      else releaseOf zones (putRun f { x with showMove := false } s) := by
  rw [endMove, figRun_releaseOf, figRun_putRun hf, modFigRun_released hf]
  split
  · rfl
  · next hnot =>
    have hsame : ({ x with showMove := false } : FigRun) = x := by
      rcases x with ⟨⟩
      simp_all
    rw [hsame]

/-- R115: a figure that stands away from its park position in SETTLING begins its park run. -/
theorem parkCheck_begins {f : Nat} {c : FigRec} {x : FigRun} {zones : List Nat} {s : State} (hf : f < s.fig.run.length)
    (hc : figRec s f = some c) (hparked : x.state = .parked) (haway : c.window < gap c.park x.pos)
    (hgranted : s.zon.granted = []) (hnone : ∀ r ∈ s.zon.reqs, r.figure ≠ f) :
    let u := releaseOf zones (putRun f { x with
      state := .waitZone
      run := some ⟨.park, [(c.park, c.creep)], 1, 100, c.homingZones.map fun z => (z, 0), false, .claim, .seek, .off,
        false⟩ } s)
    parkCheck f (releaseOf zones (putRun f x s)) = { u with
      zon := if c.homingZones = [] then { u.zon with granted := [f] }
        else { u.zon with trialDue := true, reqs := s.zon.reqs ++ [⟨f, c.homingZones, .waiting⟩] } } := by
  intro u
  have hx : figRun (releaseOf zones (putRun f x s)) f = x := figRun_putRun hf
  have hpark : ¬atPark c x = true := by
    rw [atPark, decide_eq_true_eq]
    exact not_le.mpr haway
  have hbegins : parkCheck f (releaseOf zones (putRun f x s)) = requestRun false f c.homingZones u := by
    have hrec : figRec (releaseOf zones (putRun f x s)) f = some c := hc
    simp only [parkCheck, hrec, hx, hparked, if_neg hpark, beginPark, modFigRun_released hf]
    rfl
  rw [hbegins, requestRun]
  by_cases hzones : c.homingZones = []
  · rw [if_pos hzones, if_pos hzones, State.modZon, show u.zon.granted = [] from hgranted]
    rfl
  · rw [if_neg hzones, if_neg hzones, enterRequest, withdrawRequest_idle f u (by exact hnone)]
    rfl

/-- R104: a leg in a direction, at a figure whose record is written. -/
theorem headFor_putRun {f : Nat} {outward : Bool} {r : RunRec} {x : FigRun} {s : State} (hf : f < s.fig.run.length)
    (hrun : x.run = some r) : headFor f outward (putRun f x s) =
      if x.lastOut = outward then
        applyDuty f (putRun f { x with hold := none, run := some { r with outward := outward } } s)
      else putRun f (FigRun.withDuty s.now (jamTime s f) 0
        { x with hold := some (s.now + 50000), run := some { r with outward := outward } }) s := by
  rw [headFor, figRun_putRun hf]
  refine if_congr Iff.rfl ?_ ?_
  · rw [modRun, modFigRun_putRun hf, modFigRun_putRun hf, hrun]
    rfl
  · rw [holdFor, modRun, modFigRun_putRun hf, modFigRun_putRun hf, setDuty_eq_putRun, figRun_putRun hf, putRun_putRun,
      hrun]
    rfl

/-- R105: an intermediate waypoint passed, the next one not at the present position. -/
theorem passes_putRun {f : Nat} {r : RunRec} {x : FigRun} {s : State} (hf : f < s.fig.run.length)
    (hrun : x.run = some r) (hsends : Sends s) (hroom : s.bus.queue.length < 8)
    (hquiet : ∀ g ∈ s.bus.queue, ∀ z, g.content ≠ .claim true z) (hnext : (r.waypoints.getD r.leg (0, 0)).1 ≠ x.pos) :
    startLeg legFuel f (passWaypoint f r (putRun f x s)) =
      headFor f (decide (x.pos < (r.waypoints.getD r.leg (0, 0)).1)) (putRun f { x with
        run := some { r with leg := r.leg + 1, zones := r.zones.filter fun z => z.2 != r.leg } }
        (releaseOf (((r.zones.filter fun z => z.2 == r.leg).map (·.1)).filter (heldFor s f)) s)) := by
  have hpassed : passWaypoint f r (putRun f x s) = putRun f { x with
      run := some { r with leg := r.leg + 1, zones := r.zones.filter fun z => z.2 != r.leg } }
      (releaseOf (((r.zones.filter fun z => z.2 == r.leg).map (·.1)).filter (heldFor s f)) s) := by
    rw [passWaypoint, releaseIndex_putRun hf hsends hroom hquiet, modRun, modFigRun_released hf, hrun]
    rfl
  have hwaypoint : (RunRec.waypoint { r with leg := r.leg + 1, zones := r.zones.filter fun z => z.2 != r.leg })
      = r.waypoints.getD r.leg (0, 0) := rfl
  rw [hpassed, show legFuel = 8 + 1 from rfl, startLeg, figRun_putRun (by exact hf)]
  simp only [hwaypoint, if_neg hnext]

/-- R103, R104, R106: what a counted edge does to a drive toward a target. -/
theorem afterEdge_drives {f : Nat} {c : FigRec} {r : RunRec} {x : FigRun} {s : State} (hf : f < s.fig.run.length)
    (hdriven : x.state = .moving ∨ (x.state = .homing ∧ r.phase = .toPark)) (hrun : x.run = some r) :
    afterEdge f c (putRun f x s) =
      if r.waypoints.length ≤ r.leg then
        if gap r.waypoint.1 x.pos ≤ c.window then arrive f r (putRun f x s) else applyDuty f (putRun f x s)
      else if reached r x.pos = true then startLeg legFuel f (passWaypoint f r (putRun f x s))
      else applyDuty f (putRun f x s) := by
  have hprogress : afterEdge f c (putRun f x s) = legProgress f c r (putRun f x s) := by
    rcases hdriven with hstate | ⟨hstate, hphase⟩
    · simp only [afterEdge, figRun_putRun hf, hstate, hrun]
    · simp only [afterEdge, figRun_putRun hf, hstate, hrun, hphase]
  rw [hprogress, legProgress, figRun_putRun hf]
  simp only [RunRec.lastLeg, decide_eq_true_eq]

/-- A figure that does not drive makes no progress (log entry 21). -/
theorem afterEdge_stands {f : Nat} {c : FigRec} {s : State}
    (hstands : (figRun s f).state ∈ [.parked, .unhomed, .waitZone, .jammed, .failed]) : afterEdge f c s = s := by
  unfold afterEdge
  simp only [List.mem_cons, List.not_mem_nil, or_false] at hstands
  rcases hstands with h | h | h | h | h <;> simp only [h]

/-- Settles O48. -/
theorem encoderEdgesMoveThePosition : Obligations.EncoderEdgesMoveThePosition := by
  intro t n f e edge c s hlive hrest htimer hdue hkind hf6 hc hencoder hothers q isEdge counted pos jam formed
  let u : State := { s with now := t }
  have hformed : formedAt n u = formed := rfl
  have hout : encoderFilterOut n u = if isEdge then encoderEdge f formed else formed :=
    encoderFilterOut_eq (s := u) htimer hdue hkind hf6 hc hencoder hothers
  have hcountedQ : edgeCounted q = true ↔ counted := edgeCounted_iff
  have hmoves : ∀ v, isEdge → counted → (q.lastOut = false ∨ q.duty = 0 ∨ q.pos < c.travelMax) →
      afterEdge f c (putRun f { q with pos := pos, jam := jam } formed) = v → encoderFilterOut n u = v := by
    intro v hedge hcounted hfree hv
    rw [hout, if_pos hedge, encoderEdge_counted (s := formed) hc (hcountedQ.mpr hcounted) hfree]
    exact hv
  refine ⟨fun hnot => ?_, fun hedge hcounted hf hstate hfree => ?_, fun hedge hlast hon hend hstate => ?_,
    fun r hedge hstate hrun hon hhold hfree hrail hcreep hf => ?_⟩
  · refine zoneEvent_of hlive hrest (encoderFilterOut n) ?_ rfl
    rw [hout]
    split
    · next hedge => exact encoderEdge_uncounted (s := formed) hc fun h => hnot ⟨hedge, hcountedQ.mp h⟩
    · rfl
  · refine zoneEvent_of hlive hrest (encoderFilterOut n) (hmoves _ hedge hcounted hfree ?_) rfl
    refine afterEdge_stands ?_
    rw [figRun_putRun (s := formed) hf]
    rcases hstate with h | ⟨h, -⟩
    · simp only [List.mem_cons, List.not_mem_nil, or_false] at h ⊢
      rcases h with h | h | h <;> simp [h]
    · simp only [List.mem_cons, List.not_mem_nil, or_false] at h ⊢
      rcases h with h | h <;> simp [h]
  · refine zoneEvent_atRest hlive (encoderFilterOut n) ?_ (driveBreaks_rest _ _ _ hrest)
    rw [hout, if_pos hedge, encoderEdge_overtravel (s := formed) hc hlast hon hend, overtravel_eq (s := formed) hstate]
  · intro dist duty put quiet held mine
    let y : FigRun := { q with pos := pos, jam := jam }
    have hput : ∀ x zones, put x zones = releaseOf zones (putRun f x formed) := fun _ _ => rfl
    have hheld : heldFor formed f = held := rfl
    have hdriven : y.state = .moving ∨ (y.state = .homing ∧ r.phase = .toPark) :=
      hstate.imp_right fun h => ⟨h.1, h.2.2⟩
    have hmoving : r.kind = .move → y.state = .moving := fun hkind => hstate.resolve_right fun h => by
      rw [hkind] at h
      cases h.2.1
    have hgo : ∀ v, afterEdge f c (putRun f y formed) = v → encoderFilterOut n u = v :=
      fun v => hmoves v hedge (.inl hon) (hfree.imp_right .inr)
    have hafter : afterEdge f c (putRun f y formed) =
        if r.waypoints.length ≤ r.leg then
          if dist r.waypoint.1 pos ≤ c.window then arrive f r (putRun f y formed) else applyDuty f (putRun f y formed)
        else if reached r pos = true then startLeg legFuel f (passWaypoint f r (putRun f y formed))
        else applyDuty f (putRun f y formed) := afterEdge_drives (s := formed) (x := y) hf hdriven hrun
    have hdutyPos : ∀ w last, 0 < duty w last := by
      intro w last
      change 0 < if _ then _ else _
      split
      · exact hcreep
      · exact lt_max_of_lt_left hcreep
    refine ⟨fun hkind hlast haway => ?_, fun hkind hlast haway => ?_, fun hkind hmore hreached hquiet => ?_,
      fun hlast hnear hquiet => ?_⟩
    · have hworked : workDuty (putRun f y formed) f = duty r.waypoint true := by
        rw [workDuty_move (s := formed) (x := y) hf hc (hmoving hkind) hrun hkind hhold hrail, moveDuty, RunRec.lastLeg,
          decide_eq_true hlast]
        rfl
      refine zoneEvent_of hlive hrest (encoderFilterOut n) (hgo _ ?_) rfl
      rw [hafter, if_pos hlast, if_neg (not_le.mpr haway),
        applyDuty_runs (s := formed) (x := y) hf hon (hdutyPos _ _) hworked]
      rfl
    · have hworked : workDuty (putRun f y formed) f = c.creep :=
        workDuty_creep (s := formed) (x := y) hf hc (hdriven.imp_left fun h => ⟨h, hkind⟩) hrun hhold hrail
      refine zoneEvent_of hlive hrest (encoderFilterOut n) (hgo _ ?_) rfl
      rw [hafter, if_pos hlast, if_neg (not_le.mpr haway), applyDuty_runs (s := formed) (x := y) hf hon hcreep hworked]
      rfl
    · intro next passed hnext
      have hreach : reached r pos = true := by
        rw [reached]
        cases hout : r.outward <;> rw [hout] at hreached <;> exact decide_eq_true hreached
      obtain ⟨hsends, hroom, hclaims⟩ := hquiet
      have hpasses := passes_putRun (s := formed) (x := y) hf hrun hsends hroom hclaims hnext
      refine zoneEvent_atRest hlive (encoderFilterOut n) (hgo _ ?_) (by exact hrest)
      rw [hafter, if_neg (not_le.mpr hmore), if_pos hreach, hpasses, headFor_putRun (by exact hf) rfl, hheld, hput,
        apply_ite (putRun f · formed), apply_ite (releaseOf mine)]
      refine if_congr Iff.rfl ?_ ?_
      · let z : FigRun := { y with hold := none, run := some passed }
        have hworked : workDuty (putRun f z (releaseOf mine formed)) f = duty next (decide (r.waypoints.length ≤ r.leg + 1)) :=
          workDuty_move (s := releaseOf mine formed) (x := z) hf hc (hmoving hkind) rfl hkind rfl hrail
        refine (applyDuty_runs (s := releaseOf mine formed) (x := z) hf hon (hdutyPos _ _) hworked).trans ?_
        have hstill : q.hold = none := hhold
        refine congrArg (releaseOf mine) (congrArg (putRun f · formed) ?_)
        simp only [hstill]
        rfl
      · rw [withDuty_stops (by exact hon)]
        rfl
    · obtain ⟨hsends, hroom, hclaims⟩ := hquiet
      intro stands
      have harrived : afterEdge f c (putRun f y formed) = arrive f r (putRun f y formed) := by
        rw [hafter, if_pos hlast, if_pos hnear]
      refine ⟨fun hkind hplaying => ?_, fun hkind => ?_, fun hkind hsettling haway hnone => ?_⟩
      · intro v
        have hends : arrive f r (putRun f y formed) = if q.showMove then gateCheck v else v := by
          rw [arrive_move (s := formed) hf hkind hsends hroom hclaims]
          refine (if_neg hplaying).trans ?_
          rw [endMove_released (s := formed) hf]
          rfl
        refine zoneEvent_atRest hlive (encoderFilterOut n) (hgo _ (harrived.trans hends)) ?_
        split
        · rw [ZonesAtRest, (gateCheck_rest v).1, (gateCheck_rest v).2]
          exact hrest
        · exact hrest
      · intro v
        have hends : arrive f r (putRun f y formed) = v :=
          arrive_other (s := formed) (x := y) hf hkind hsends hroom hclaims
        have hstands : figRun v f = stands := figRun_putRun (s := formed) hf
        refine ⟨zoneEvent_atRest hlive (encoderFilterOut n) (hgo _ (harrived.trans hends)) (by exact hrest), ?_, ?_⟩
        · simp [jammedFigures, homesFromJam, hstands, stands]
        · simp [figsIn, hstands, stands]
      · intro v
        have hends := arrive_move (s := formed) (x := y) hf hkind hsends hroom hclaims
        have hparks := parkCheck_begins (s := formed) (zones := mine) (x := stands) hf hc rfl haway hrest.2 hnone
        have hsettles : encoderFilterOut n u = _ := hgo _ (harrived.trans (hends.trans ((if_pos hsettling).trans hparks)))
        calc exec (.encoderFilterExpiry t n) s
            = event t (fun s => settleZones trialFuel (encoderFilterOut n s)) s := rfl
          _ = _ := by rw [event_live hlive, hsettles]; rfl

end Sys2Proof.Machine

/-! SUPPORT. Proofs about the outputs and the supply rail (chapter 8). -/

namespace Sys2Proof.Machine

/-! ## Outputs (R133 to R138) -/

theorem lampHold_iff (s : State) : lampHold s = true ↔
    s.sck.level = .closed ∧ ¬(inShow s = true ∧ s.she.showRec.map (·.slot) = some 2047) := by
  simp only [lampHold, serviceShow, Config.serviceSlot, Bool.and_eq_true, Bool.not_eq_true', beq_iff_eq, ← Bool.not_eq_true]

theorem isPulsing_iff (h : Hammer) : isPulsing h = true ↔ ∃ e, h = .pulsing e := by
  cases h <;> simp [isPulsing]

/-- The HAMMER outputs (R133). -/
theorem hammerOn_iff (s : State) (ch : Nat) :
    ((bellNumbers s).any fun b => ((bellRec s b).map (·.hammer)) == some ch && isPulsing (bellRun s b).hammer) = true ↔
      ∃ b < 13, ∃ c e, bellRec s b = some c ∧ c.hammer = ch ∧ (bellRun s b).hammer = .pulsing e := by
  refine (any_bellNumbers_iff s _).trans (exists_congr fun b => and_congr_right fun _ => exists_congr fun c => ?_)
  rw [exists_and_left]
  exact and_congr_right fun hc => by simp [hc, isPulsing_iff]

/-- The DAMPER outputs (R133). -/
theorem damperOn_iff (s : State) (ch : Nat) :
    ((bellNumbers s).any fun b => ((bellRec s b).bind (·.damper)) == some ch && (bellRun s b).damper != .down) = true ↔
      ∃ b < 13, ∃ c, bellRec s b = some c ∧ c.damper = some ch ∧ (bellRun s b).damper ≠ .down := by
  refine (any_bellNumbers_iff s _).trans (exists_congr fun b => and_congr_right fun _ => exists_congr fun c => ?_)
  exact and_congr_right fun hc => by simp [hc]

/-- The MOTOR_PWM outputs (R136). -/
theorem pwmOn_iff (s : State) (ch : Nat) :
    ((figNumbers s).any fun f => ((figRec s f).map (·.motor)) == some ch
      && decide (2 * (s.now - s.chr.pwmStart) < (figRun s f).duty)) = true ↔
      ∃ f < 7, ∃ c, figRec s f = some c ∧ c.motor = ch ∧ 2 * (s.now - s.chr.pwmStart) < (figRun s f).duty := by
  refine (any_figNumbers_iff s _).trans (exists_congr fun f => and_congr_right fun _ => exists_congr fun c => ?_)
  exact and_congr_right fun hc => by simp [hc]

/-- The MOTOR_DIR outputs (R135). -/
theorem dirOn_iff (s : State) (ch : Nat) :
    ((figNumbers s).any fun f => ((figRec s f).map (·.dir)) == some ch && (figRun s f).lastOut) = true ↔
      ∃ f < 7, ∃ c, figRec s f = some c ∧ c.dir = ch ∧ (figRun s f).lastOut = true := by
  refine (any_figNumbers_iff s _).trans (exists_congr fun f => and_congr_right fun _ => exists_congr fun c => ?_)
  exact and_congr_right fun hc => by simp [hc]

theorem outputOn_iff (s : State) (ch : Nat) : outputOn s ch = true ↔ s.iml.accepted = true ∧ match (chanRec s ch).kind with
    | .off => False
    | .hammer => ∃ b < 13, ∃ c e, bellRec s b = some c ∧ c.hammer = ch ∧ (bellRun s b).hammer = .pulsing e
    | .damper => ∃ b < 13, ∃ c, bellRec s b = some c ∧ c.damper = some ch ∧ (bellRun s b).damper ≠ .down
    | .motorPwm => ∃ f < 7, ∃ c, figRec s f = some c ∧ c.motor = ch ∧ 2 * (s.now - s.chr.pwmStart) < (figRun s f).duty
    | .motorDir => ∃ f < 7, ∃ c, figRec s f = some c ∧ c.dir = ch ∧ (figRun s f).lastOut = true
    | .lamp => s.now - s.chr.lampStart < lampOutput s ch * 1000 / 255
    | .strobe => s.chr.strobeEnd ≠ none := by
  rw [outputOn, Bool.and_eq_true]
  refine and_congr_right fun _ => ?_
  cases (chanRec s ch).kind with
  | off => simp
  | hammer => exact hammerOn_iff s ch
  | damper => exact damperOn_iff s ch
  | motorPwm => exact pwmOn_iff s ch
  | motorDir => exact dirOn_iff s ch
  | lamp => exact decide_eq_true_iff
  | strobe => exact Option.isSome_iff_ne_none

/-! ## Fades (R137) -/

/-- The level of a fade under way, rounded toward zero: the model's two cases are one signed division. -/
theorem fadeLevel_fading {l : Lamp} {f : Fade} {t : Nat} (hl : l.fade = some f) (hb : f.at_ ≤ t) (he : t < f.at_ + f.dur) :
    (fadeLevel l t : Int) = f.start + (((f.target : Int) - f.start) * ((t : Int) - f.at_)).tdiv f.dur := by
  obtain ⟨k, rfl⟩ := Nat.exists_eq_add_of_le hb
  have hk : (((f.at_ + k : Nat) : Int) - f.at_) = k := by omega
  simp only [fadeLevel, hl, if_neg (Nat.not_le.2 he), hk, Nat.add_sub_cancel_left]
  by_cases hup : f.start ≤ f.target
  · rw [if_pos hup]
    obtain ⟨d, hd⟩ := Nat.exists_eq_add_of_le hup
    rw [hd, Nat.add_sub_cancel_left, show (((f.start + d : Nat) : Int) - f.start) = d by omega]
    norm_cast
  · rw [if_neg hup]
    obtain ⟨d, hd⟩ := Nat.exists_eq_add_of_le (Nat.le_of_not_le hup)
    have hle : d * k / f.dur ≤ d := by
      refine Nat.div_le_of_le_mul ?_
      rw [Nat.mul_comm]
      exact Nat.mul_le_mul_right d (by omega)
    have hdiv : ((d * k / f.dur : Nat) : Int) = ((d : Int) * k).tdiv f.dur := by norm_cast
    rw [hd, Nat.add_sub_cancel_left, show ((f.target : Int) - (f.target + d : Nat)) = -d by omega, Int.neg_mul,
      Int.neg_tdiv, ← hdiv, Int.ofNat_sub (Nat.le_trans hle (Nat.le_add_left d f.target)), sub_eq_add_neg]

/-- A lamp worked at the present moment, by its fade. -/
theorem lamp_period_cases (t : Nat) (l : Lamp) (hb : ∀ f, l.fade = some f → f.at_ ≤ t) :
    match l.fade with
    | none => l.period t = l
    | some f => if f.at_ + f.dur ≤ t then l.period t = ⟨f.target, none⟩
      else (l.period t).fade = some f ∧ ((l.period t).level : Int)
        = f.start + (((f.target : Int) - f.start) * ((t : Int) - f.at_)).tdiv f.dur := by
  obtain ⟨level, fade⟩ := l
  cases fade with
  | none => rfl
  | some f =>
    show if f.at_ + f.dur ≤ t then _ else _
    split
    next h => simp [Lamp.period, fadeLevel, h]
    next h =>
      refine ⟨by simp [Lamp.period, Nat.lt_of_not_le h], ?_⟩
      exact fadeLevel_fading (l := ⟨level, some f⟩) rfl (hb f rfl) (Nat.lt_of_not_le h)

theorem workLamps_lampAt (s : State) (ch : Nat) :
    (s.chr.lamps.map (Lamp.period s.now)).getD ch ⟨0, none⟩ = (lampAt s ch).period s.now := by
  simp only [lampAt, List.getD_eq_getElem?_getD, List.getElem?_map]
  cases s.chr.lamps[ch]? <;> rfl

theorem lampAt_mem_or (s : State) (ch : Nat) : lampAt s ch ∈ s.chr.lamps ∨ lampAt s ch = ⟨0, none⟩ := by
  simp only [lampAt, List.getD_eq_getElem?_getD]
  cases h : s.chr.lamps[ch]? with
  | none => exact .inr rfl
  | some l => exact .inl (List.mem_of_getElem? h)

/-- Settles O57: the output pins are read off the model's views; a lamp period works each level by the signed division
of R137, of which the model's two unsigned cases are the two signs. -/
theorem outputsFollowTheirPeriods : Obligations.OutputsFollowTheirPeriods := by
  refine ⟨fun ch s => ⟨lampHold_iff s, rfl, ?_⟩, fun t s hlive => ⟨fun hfades => ?_,
    event_live hlive fun s => s.modChr fun c => { c with pwmStart := s.now }, fun e he => ?_⟩⟩
  · refine (outputOn_iff s ch).trans ?_
    cases (chanRec s ch).kind <;> rfl
  · refine ⟨s.chr.lamps.map (Lamp.period t), List.length_map _, fun ch => ?_, event_live hlive lampPeriodBegins⟩
    have hb : ∀ f, (lampAt s ch).fade = some f → f.at_ ≤ t := by
      rcases lampAt_mem_or s ch with h | h
      · exact hfades _ h
      · simp [h]
    have hw : (s.chr.lamps.map (Lamp.period t)).getD ch ⟨0, none⟩ = (lampAt s ch).period t :=
      workLamps_lampAt { s with now := t } ch
    have h := lamp_period_cases t (lampAt s ch) hb
    rw [hw]
    cases hf : (lampAt s ch).fade <;> rw [hf] at h <;> exact h
  · refine (event_live hlive strobeOut).trans (congrArg _ ?_)
    simp only [strobeOut, expired, he, decide_eq_true_eq, strobeLow, State.modChr]
    split
    · rfl
    · rw [← he]

/-! ## The rail (R142 to R144) -/

/-- A change of the rail's state of a station with no figure and no hammer pulsing. -/
theorem railChanged_noFigure (old new : RailState) (v : Nat) (s : State) (hfig : ∀ f, figRec s f = none) :
    railChanged old new v s = match old, new with
      | .normal, .cut | .sag, .cut => bellsEnterCut (raiseFault .railCut (v / 2) s)
      | .cut, .sag | .normal, .sag => raiseFault .railSag (v / 2) s
      | _, _ => s := by
  cases old <;> cases new <;> simp only [railChanged, figNumbers_none hfig, List.foldl_nil]

/-- The entry to CUT of a station with no figure and no hammer pulsing, the counts already set. -/
theorem bellsEnterCut_raised (v : Nat) (s : State) (h : ∀ b, ∀ e, (bellRun s b).hammer ≠ .pulsing e) :
    bellsEnterCut (raiseFault .railCut v s) =
      let u := raiseFault .railCut v s
      { u with
        bel := { s.bel with
          strikes := s.bel.strikes.filter fun e => decide ((s.now : Int) < e.fire)
          run := s.bel.run.map fun r => { r with damper := .down } }
        flt := { u.flt with
          suppressed := min 255 (s.flt.suppressed
            + (s.bel.strikes.filter fun e => decide (e.fire ≤ (s.now : Int))).length) } } := by
  have hbel := raiseFault_bel (s := s) .railCut v
  have hstill : ∀ b, ∀ e, (bellRun (raiseFault .railCut v s) b).hammer ≠ .pulsing e := by
    intro b e
    rw [bellRun, hbel]
    exact h b e
  simp only [bellsEnterCut_eq _ hstill, hbel, raiseFault_now, raiseFault_suppressed]

/-- Settles O56: the model's count and change tables, read for each rail state. -/
theorem railIsJudgedByCounts : Obligations.RailIsJudgedByCounts := by
  intro t volts s hlive hfig hstill v warn cut count enter down alt
  refine (event_live hlive (measureRail volts)).trans (congrArg _ ?_)
  have hrail : measureRail volts { s with now := t } =
      (let r := railStep warn cut v s.chr.rail s.chr.cntDown s.chr.cntAlt
      railChanged s.chr.rail r.1 v (enter r.1 r.2.1 r.2.2)) := rfl
  rw [hrail]
  simp only [railChanged_noFigure _ _ _ _ (show ∀ f, figRec (enter _ _ _) f = none from hfig)]
  cases hr : s.chr.rail with
  | normal =>
    have hd : down = railCount (decide (v < cut)) s.chr.cntDown := by simp only [down, count, hr]; rfl
    have ha : alt = railCount (decide (v < warn)) s.chr.cntAlt := by simp only [alt, count, hr]; rfl
    simp only [railStep, ← hd, ← ha]
    by_cases h1 : 10 ≤ down
    · simp only [h1, if_true]
      exact bellsEnterCut_raised _ _ hstill
    · by_cases h2 : 20 ≤ alt <;> simp only [h1, h2, if_true, if_false]
  | sag =>
    have hd : down = railCount (decide (v < cut)) s.chr.cntDown := by simp only [down, count, hr]; rfl
    have ha : alt = railCount (decide (warn + 5 < v)) s.chr.cntAlt := by simp only [alt, count, hr]; rfl
    simp only [railStep, ← hd, ← ha]
    by_cases h1 : 10 ≤ down
    · simp only [h1, if_true]
      exact bellsEnterCut_raised _ _ hstill
    · by_cases h2 : 2000 ≤ alt <;> simp only [h1, h2, if_true, if_false]
  | cut =>
    have hd : down = railCount (decide (cut + 10 < v)) s.chr.cntDown := by simp only [down, count, hr]; rfl
    simp only [railStep, ← hd]
    by_cases h1 : 1000 ≤ down <;> simp only [h1, if_true, if_false]

end Sys2Proof.Machine

/-! SUPPORT. Proofs about shared zones (chapter 7): silence, retry, window ends, claims and reasserts heard. -/

namespace Sys2Proof.Machine

/-! ## A peer's silence (R130, R158) -/

theorem withoutMember_iml (n : Nat) (s : State) : (withoutMember n s).iml = s.iml := by
  have hframe : ∀ id u, (removeFrame id u).iml = u.iml := fun id u => by unfold removeFrame; split <;> rfl
  unfold withoutMember
  split
  · rfl
  · dsimp only
    split
    · split
      · rfl
      · split
        · rfl
        · split
          · cases GateRec.goFrame ‹GateRec› with
            | none => rfl
            | some id => exact hframe id _
          · rfl
    · rfl

/-- A member that leaves and whose zones become FREE: the two in either order. -/
theorem freeStation_removeMember {n : Nat} {s : State} (hsrc : 1 ≤ n ∧ n ≤ 30) (hown : n ≠ ownNo s) :
    freeStation n (removeMember n s) = removeMember n (freeStation n s) := by
  rw [freeStation_eq hsrc hown, removeMember_eq, removeMember_eq]
  by_cases hin : inShow s = true
  · rw [if_pos hin, if_pos (by exact hin),
      freeStation_eq (s := withoutMember n s) hsrc (by rw [ownNo, withoutMember_iml]; exact hown), withoutMember_zon_eq]
    exact (withoutMember_zon n s _).symm
  · rw [if_neg hin, if_neg (by exact hin), freeStation_eq hsrc hown]

theorem silenceDue_of {n e : Nat} {s : State} (hpeer : s.bus.peers.getD n .unknown = .present e) (he : e ≤ s.now) :
    silenceDue s n = true := by
  rw [silenceDue, hpeer]
  exact decide_eq_true he

/-- Settles O55: the member's leaving and the freeing of its zones commute, so that the trial owed meets an empty list;
the retried trial claims its one request. -/
theorem silenceFreesAndRetryClaims : Obligations.SilenceFreesAndRetryClaims := by
  refine ⟨?_, ?_⟩
  · intro t n e s hlive hrest hpeer he hlow hhigh hown hreqs gone
    let u : State := { s with now := t, bus := { s.bus with peers := s.bus.peers.set n .silent } }
    calc exec (.silenceTimerExpiry t n) s
        = event t (fun s => settleZones trialFuel (if silenceDue s n then silenceExpires n s else s)) s := rfl
      _ = .next (settleZones trialFuel (freeStation n (removeMember n u))) := by
        rw [event_live hlive, if_pos (silenceDue_of (s := { s with now := t }) hpeer he)]
        rfl
      _ = .next (removeMember n ((freeStation n u).modZon fun z => { z with trialDue := false })) := by
        have hfreed := freeStation_eq (s := u) ⟨hlow, hhigh⟩ hown
        rw [freeStation_removeMember (s := u) ⟨hlow, hhigh⟩ hown,
          settleZones_removeMember n (by rw [hfreed]; exact hreqs) (by rw [hfreed]; exact hrest.2)]
      _ = .next (removeMember n { u with zon := { s.zon with view := s.zon.view.map (ZoneEntry.freedFrom n) } }) := by
        rw [freeStation_eq (s := u) ⟨hlow, hhigh⟩ hown]
        simp only [State.modZon, hrest.1, u]
      _ = _ := congrArg Host.Outcome.next (removeMember_eq n _)
  · intro t n r s hlive hrest hretry hsince hreq hwaits hzones hfree hroom
    have hfrom : retryClaim { s with now := t } =
        { s with now := t, zon := { s.zon with claimRetry := none, trialDue := true } } := by
      simp only [retryClaim, frameSince, hretry, hsince, decide_true, if_true]
      rfl
    calc exec (.claimRetryTrial t) s = zoneEvent t retryClaim s := rfl
      _ = .next (settleZones trialFuel { s with
            now := t, zon := { s.zon with claimRetry := none, trialDue := true } }) := by
        rw [zoneEvent, event_live hlive, hfrom]
      _ = _ := by
        rw [settleZones_claim (by exact hrest.2) rfl (by exact hreq) hwaits hzones (by exact hfree) (by exact hroom)]
        simp only [hrest.1]
        rfl

/-! ## Reasserts queued (R125) -/

theorem heldForFigure_iff {s : State} {z : Nat} : heldForFigure s z = true ↔ ∃ f, zoneAt s z = .held (ownNo s) (some f) := by
  rw [heldForFigure]
  rcases zoneAt s z with _ | ⟨st, g, w, f⟩ | ⟨st, _ | f⟩ <;> simp

theorem queueReassert_nothing {limited : Bool} {zones : List Nat} {s : State}
    (hnamed : zones.filter (fun z => heldForFigure s z && (!limited || reassertAllowed s z)) = []) :
    queueReassert limited zones s = s := by
  rw [queueReassert, hnamed, if_pos (.inr rfl)]

theorem queueReassert_queues {limited : Bool} {zones named : List Nat} {s : State}
    (hnamed : zones.filter (fun z => heldForFigure s z && (!limited || reassertAllowed s z)) = named)
    (hsome : named ≠ []) (hsends : Sends s) (hroom : s.bus.queue.length < 8) :
    queueReassert limited zones s = { s with
      zon := { s.zon with reassertAt := s.zon.reassertAt.mapIdx fun z r => if z ∈ named then some s.now else r }
      bus := s.bus.queued (.claim true (Bits.ofList 64 named)) } := by
  rw [queueReassert, hnamed, if_neg (by simp [sends_not_muted hsends, hsome]), queueFrame_room _ _ (by exact hroom)]
  rfl

/-! ## The end of an own window (R122, R125, R131) -/

/-- An entry of the view that is not FREE lies within it. -/
theorem lt_of_zoneAt {s : State} {z : Nat} (h : zoneAt s z ≠ .free) : z < s.zon.view.length := by
  by_contra hout
  exact h (by rw [zoneAt, List.getD_eq_default _ _ (Nat.le_of_not_lt hout)])

/-- The view worked over, at one of its zones. -/
theorem zoneAt_mapIdx {s : State} {f : Nat → ZoneEntry → ZoneEntry} {u : State} (hu : u.zon.view = s.zon.view.mapIdx f)
    {z : Nat} (h : z < s.zon.view.length) : zoneAt u z = f z (zoneAt s z) := by
  have hlen : z < (s.zon.view.mapIdx f).length := by rwa [List.length_mapIdx]
  rw [zoneAt, hu, List.getD_eq_getElem _ _ hlen, List.getElem_mapIdx, zoneAt_getElem s z h]

/-- An own group whose window has ended: the only own group, of these zones. -/
structure EndedGroup (g : Nat) (zones : List Nat) (s : State) : Prop where
  zone_iff : ∀ z, z ∈ zones ↔ groupOf (zoneAt s z) = some (ownNo s, g)
  ended : ∀ z k w f, zoneAt s z = .pending (ownNo s) k w f → k = g ∧ ∃ e ≤ s.now, w = some e
  nonempty : zones ≠ []
  sorted : zones.Pairwise (· < ·)
  short : s.zon.view.length ≤ 64

/-- The zones of an own group HELD by the station, for a figure or releasing. -/
def heldBy (zones : List Nat) (fig : Option Nat) (s : State) : State := { s with zon := { s.zon with
  view := s.zon.view.mapIdx fun z e => if z ∈ zones then .held (ownNo s) fig else e } }

theorem groupOf_eq_some {e : ZoneEntry} {st g : Nat} : groupOf e = some (st, g) ↔ ∃ w f, e = .pending st g w f := by
  cases e <;> simp [groupOf]

/-- All zones of the request are held: it is granted. -/
theorem grantRequest_head {r : ZoneReq} {l : List ZoneReq} {u : State} (hreqs : u.zon.reqs = r :: l)
    (hothers : ∀ x ∈ l, x.figure ≠ r.figure) (hrest : u.zon.granted = []) :
    grantRequest r.figure u = { u with zon := { u.zon with reqs := l, granted := [r.figure] } } := by
  have hdrop : u.zon.reqs.filter (fun q => q.figure != r.figure) = l := by
    rw [hreqs, List.filter_cons_of_neg (by simp), List.filter_eq_self]
    exact fun x hx => bne_iff_ne.2 (hothers x hx)
  simp only [grantRequest, dropRequest, State.modZon, hdrop, hrest, List.nil_append]

namespace EndedGroup
variable {g : Nat} {zones : List Nat} {s : State}

theorem zone_lt (h : EndedGroup g zones s) {z : Nat} (hz : z ∈ zones) : z < s.zon.view.length := by
  obtain ⟨w, f, he⟩ := groupOf_eq_some.1 ((h.zone_iff z).1 hz)
  exact lt_of_zoneAt (by simp [he])

theorem holdGroup_eq (h : EndedGroup g zones s) (fig : Option Nat) : holdGroup g fig s = heldBy zones fig s := by
  refine congrArg (fun v => { s with zon := { s.zon with view := v } }) (view_mapIdx_congr fun z => ?_)
  exact if_congr (h.zone_iff z).symm rfl rfl

theorem ownGroupZones_eq (h : EndedGroup g zones s) : ownGroupZones s g = zones := by
  refine eq_of_sorted _ _ (List.Pairwise.filter _ List.pairwise_lt_range) h.sorted fun z => ?_
  simp only [ownGroupZones, zonesWhere, List.mem_filter, List.mem_range, beq_iff_eq, ← h.zone_iff]
  exact ⟨And.right, fun hz => ⟨Nat.lt_of_lt_of_le (h.zone_lt hz) h.short, hz⟩⟩

theorem endedOwnGroups_eq (h : EndedGroup g zones s) : endedOwnGroups s = [g] := by
  unfold endedOwnGroups
  generalize hl : s.zon.view.filterMap _ = l
  have hall : ∀ k ∈ l, k = g := by
    intro k hk
    rw [← hl, List.mem_filterMap] at hk
    obtain ⟨e, he, hek⟩ := hk
    obtain ⟨z, hz, rfl⟩ := List.getElem_of_mem he
    rw [zoneAt_getElem s z hz] at hek
    split at hek
    next st k' w f hpend =>
      obtain ⟨⟨rfl, hw⟩, rfl⟩ : (st = ownNo s ∧ w ≤ s.now) ∧ k' = k := by simpa using hek
      exact (h.ended z _ _ _ hpend).1
    all_goals exact absurd hek (by simp)
  have hmem : g ∈ l := by
    obtain ⟨z, hz⟩ := List.exists_mem_of_ne_nil _ h.nonempty
    obtain ⟨w, f, hpend⟩ := groupOf_eq_some.1 ((h.zone_iff z).1 hz)
    obtain ⟨-, e, he, rfl⟩ := h.ended z g w f hpend
    rw [← hl, List.mem_filterMap]
    refine ⟨zoneAt s z, ?_, by simp [hpend, he]⟩
    rw [← zoneAt_getElem s z (h.zone_lt hz)]
    exact List.getElem_mem _
  rw [List.eq_replicate_of_mem hall]
  exact List.replicate_dedup fun h0 => by simp [List.length_eq_zero_iff.1 h0] at hmem

theorem zoneAt_heldBy (h : EndedGroup g zones s) (fig : Option Nat) {z : Nat} (hz : z ∈ zones) :
    zoneAt (heldBy zones fig s) z = .held (ownNo s) fig := by
  rw [zoneAt_mapIdx (s := s) rfl (h.zone_lt hz), if_pos hz]

/-- The group is gone from the view, and so are its discard marks. -/
theorem marks_gone (h : EndedGroup g zones s) (fig : Option Nat) {marks : List Nat} (hmarks : ∀ m ∈ marks, m = g) :
    marks.filter (fun m => (heldBy zones fig s).zon.view.any fun e => groupOf e == some (ownNo s, m)) = [] := by
  rw [List.filter_eq_nil_iff]
  intro m hm hany
  obtain rfl := hmarks m hm
  obtain ⟨e, he, hgroup⟩ := List.any_eq_true.1 hany
  obtain ⟨z, hz, rfl⟩ := List.getElem_of_mem he
  rw [beq_iff_eq] at hgroup
  simp only [heldBy, List.getElem_mapIdx] at hgroup
  split at hgroup
  · exact absurd hgroup (by simp [groupOf])
  next hnot =>
    have hlt : z < s.zon.view.length := by simpa [heldBy] using hz
    exact hnot ((h.zone_iff z).2 (by rw [← zoneAt_getElem s z hlt]; exact hgroup))

/-- The end of the window: the one group is worked and its marks drop. -/
theorem ownWindowsEnd_eq (h : EndedGroup g zones s) {u : State} {fig : Option Nat} (hu : ownWindowEnds s g = u)
    (hview : u.zon.view = (heldBy zones fig s).zon.view) (hmarks : ∀ m ∈ u.zon.marks, m = g) :
    ownWindowsEnd s = { u with zon := { u.zon with marks := [] } } := by
  have hgone := h.marks_gone fig hmarks
  rw [ownWindowsEnd, h.endedOwnGroups_eq, List.foldl_cons, List.foldl_nil, hu]
  simp only [State.modZon, hview, hgone]

/-- R125: the reassert that a marked group has queued first. -/
theorem queueReassert_heldBy (h : EndedGroup g zones s) (fig : Nat) (hsends : Sends s) (hroom : s.bus.queue.length < 8)
    {named : List Nat} (hnamed : named = zones.filter (reassertAllowed s)) :
    queueReassert true zones (heldBy zones (some fig) s) =
      if named = [] then heldBy zones (some fig) s
      else { heldBy zones (some fig) s with
        zon := { (heldBy zones (some fig) s).zon with
          reassertAt := s.zon.reassertAt.mapIdx fun z r => if z ∈ named then some s.now else r }
        bus := s.bus.queued (.claim true (Bits.ofList 64 named)) } := by
  have hnames : zones.filter (fun z => heldForFigure (heldBy zones (some fig) s) z
      && (!true || reassertAllowed (heldBy zones (some fig) s) z)) = named := by
    rw [hnamed]
    refine List.filter_congr fun z hz => ?_
    rw [heldForFigure_iff.2 ⟨fig, h.zoneAt_heldBy _ hz⟩]
    rfl
  by_cases hnone : named = []
  · rw [if_pos hnone, queueReassert_nothing (hnames.trans hnone)]
  · rw [if_neg hnone, queueReassert_queues hnames hnone hsends hroom]
    rfl

/-- R122: the window's end grants the one request of the group, `s2` being the state after the reassert of a marked
group. -/
theorem ownWindowsEnd_granted (h : EndedGroup g zones s) {r : ZoneReq} {l : List ZoneReq} {s2 : State}
    {ra : List (Option Nat)} (hreqs : s.zon.reqs = r :: l) (hclaims : r.state = .claiming g) (hzones : r.zones = zones)
    (hothers : ∀ x ∈ l, x.figure ≠ r.figure) (hgranted : s.zon.granted = []) (hmarks : ∀ m ∈ s.zon.marks, m = g)
    (hs2 : (if g ∈ s.zon.marks then queueReassert true zones (heldBy zones (some r.figure) s)
      else heldBy zones (some r.figure) s) = s2)
    (hown : ownNo s2 = ownNo s) (hzon : s2.zon = { (heldBy zones (some r.figure) s).zon with reassertAt := ra }) :
    ownWindowsEnd s = { s2 with zon := { (heldBy zones (some r.figure) s).zon with
      reassertAt := ra, reqs := l, granted := [r.figure], marks := [] } } := by
  have hfind : s.zon.reqs.find? (fun q => q.state == .claiming g) = some r := by
    rw [hreqs, List.find?_cons_of_pos (by simp [hclaims])]
  have hview : s2.zon.view = (heldBy zones (some r.figure) s).zon.view := by rw [hzon]
  have hall : r.zones.all (heldFor s2 r.figure) = true := by
    rw [hzones, List.all_eq_true]
    intro z hz
    have hat : zoneAt s2 z = .held (ownNo s) (some r.figure) := by
      rw [zoneAt, hview]
      exact h.zoneAt_heldBy _ hz
    rw [heldFor, hat, hown]
    exact beq_self_eq_true _
  have hends : ownWindowEnds s g = { s2 with zon := { s2.zon with reqs := l, granted := [r.figure] } } := by
    simp only [ownWindowEnds, hfind, h.ownGroupZones_eq, h.holdGroup_eq, hs2, hall, if_true]
    exact grantRequest_head (by rw [hzon]; exact hreqs) hothers (by rw [hzon]; exact hgranted)
  rw [h.ownWindowsEnd_eq hends hview (by exact fun m hm => hmarks m (by rw [hzon] at hm; exact hm)), hzon]

/-- R131: the window's end of a group whose request has gone releases its zones. -/
theorem ownWindowsEnd_releases (h : EndedGroup g zones s) (hgone : ∀ r ∈ s.zon.reqs, r.state ≠ .claiming g)
    (hmarks : ∀ m ∈ s.zon.marks, m = g) (hsends : Sends s) (hroom : s.bus.queue.length < 8) :
    ownWindowsEnd s = { s with
      zon := { (heldBy zones none s).zon with marks := [] }, bus := s.bus.queued (.release (Bits.ofList 64 zones)) } := by
  have hfind : s.zon.reqs.find? (fun q => q.state == .claiming g) = none := by
    rw [List.find?_eq_none]
    exact fun r hr => by simpa using hgone r hr
  have hmuted : isMuted (heldBy zones none s) = false := sends_not_muted (s := heldBy zones none s) hsends
  have hends : ownWindowEnds s g =
      { heldBy zones none s with bus := s.bus.queued (.release (Bits.ofList 64 zones)) } := by
    simp only [ownWindowEnds, hfind, h.ownGroupZones_eq, h.holdGroup_eq, sends_not_muted hsends, Bool.false_eq_true,
      if_false]
    rw [queueFrame_room _ _ (by exact hroom)]
    rfl
  exact h.ownWindowsEnd_eq hends rfl hmarks

end EndedGroup

/-- Settles O53: the group that ended is read as an `EndedGroup`, whose zones the model's three workings name alike. -/
theorem ownWindowEndsInAHold : Obligations.OwnWindowEndsInAHold := by
  intro t g zones s hlive hrest hzones hshort hmem hsorted hended held
  have hgroup : EndedGroup g zones { s with now := t } := by
    refine ⟨fun z => (hmem z).trans ?_, hended, hzones, hsorted, hshort⟩
    rw [groupOf_eq_some]
    exact ⟨fun ⟨k, w, f, hpend⟩ => ⟨w, f, (hended z k w f hpend).1 ▸ hpend⟩, fun ⟨w, f, hpend⟩ => ⟨g, w, f, hpend⟩⟩
  have hexec : exec (.ownClaimWindowEnd t) s = .next (settleZones trialFuel (ownWindowsEnd { s with now := t })) :=
    event_live hlive fun s => settleZones trialFuel (ownWindowsEnd s)
  refine ⟨?_, fun hgone hmarks hsends hroom => ?_⟩
  · intro r l hreqs hclaims hrz hothers granted
    refine ⟨fun hmarks => ?_, fun named hmarks hsends hroom hnamed => ?_⟩
    · rw [hexec, hgroup.ownWindowsEnd_granted (s2 := heldBy zones (some r.figure) { s with now := t })
        (ra := s.zon.reassertAt) hreqs hclaims hrz hothers hrest.2 (by simp [hmarks]) (if_neg (by simp [hmarks])) rfl rfl]
      rfl
    · have hqueues := hgroup.queueReassert_heldBy r.figure hsends (by exact hroom) (named := named) hnamed
      have hmarked : (if g ∈ s.zon.marks then queueReassert true zones (heldBy zones (some r.figure) { s with now := t })
          else heldBy zones (some r.figure) { s with now := t }) = _ := (if_pos (by simp [hmarks])).trans hqueues
      by_cases hnone : named = []
      · rw [if_pos hnone] at hmarked ⊢
        rw [hexec, hgroup.ownWindowsEnd_granted (ra := s.zon.reassertAt) hreqs hclaims hrz hothers hrest.2 (by simp [hmarks])
          hmarked rfl rfl]
        rfl
      · rw [if_neg hnone] at hmarked ⊢
        rw [hexec, hgroup.ownWindowsEnd_granted hreqs hclaims hrz hothers hrest.2 (by simp [hmarks]) hmarked rfl rfl]
        rfl
  · rw [hexec, hgroup.ownWindowsEnd_releases hgone hmarks hsends (by exact hroom), settleZones_rest (by exact hrest)]
    rfl

end Sys2Proof.Machine

/-! SUPPORT. Proofs about claims and reasserts heard (R123, R126, R127). -/

namespace Sys2Proof.Machine

/-! ## Groups and zones named (R118) -/

theorem mem_groupsIn {s : State} {zones : ZoneSet} {p : Nat → Bool} {st g : Nat} :
    (st, g) ∈ groupsIn s zones p ↔ (∃ z ∈ Bits.toList zones, ∃ w f, zoneAt s z = .pending st g w f) ∧ p st = true := by
  simp only [groupsIn, List.mem_filter, List.mem_filterMap, groupOf_eq_some]

theorem groupsIn_none {s : State} {zones : ZoneSet} {p : Nat → Bool}
    (h : ∀ z ∈ Bits.toList zones, ∀ st g w f, zoneAt s z = .pending st g w f → p st = false) : groupsIn s zones p = [] := by
  rw [List.eq_nil_iff_forall_not_mem]
  rintro ⟨st, g⟩ hmem
  obtain ⟨⟨z, hz, w, f, hpend⟩, hp⟩ := mem_groupsIn.1 hmem
  rw [h z hz st g w f hpend] at hp
  cases hp

theorem mem_ownFrames {s : State} {gs : List (Nat × Nat)} {k : Nat} :
    k ∈ (gs.filter fun g => g.1 == ownNo s).map (·.2) ↔ (ownNo s, k) ∈ gs := by
  simp

/-- The view worked over, at a zone: what it made of its entry, or FREE outside the view. -/
theorem zoneAt_mapIdx_cases {s u : State} {f : Nat → ZoneEntry → ZoneEntry} (hu : u.zon.view = s.zon.view.mapIdx f)
    (z : Nat) : zoneAt u z = .free ∨ zoneAt u z = f z (zoneAt s z) := by
  by_cases hz : z < s.zon.view.length
  · exact .inr (zoneAt_mapIdx hu hz)
  · refine .inl ?_
    rw [zoneAt, hu, List.getD_eq_default _ _ (by rw [List.length_mapIdx]; exact Nat.le_of_not_lt hz)]

/-! ## Groups voided, an own claim lost (R118, R119) -/

/-- An entry of the view after groups are voided. -/
def ZoneEntry.voidedBy (gs : List (Nat × Nat)) : ZoneEntry → ZoneEntry
  | .pending st g w f => if (st, g) ∈ gs then .free else .pending st g w f
  | e => e

theorem voidGroups_eq (gs : List (Nat × Nat)) (s : State) : voidGroups gs s = { s with zon := { s.zon with
    view := s.zon.view.mapIdx fun _ => ZoneEntry.voidedBy gs } } :=
  congrArg (fun v => { s with zon := { s.zon with view := v } }) (view_mapIdx_congr fun z => by
    cases zoneAt s z <;> rfl)

theorem removeFrame_setZon (g : Nat) (s : State) (x : Zon) :
    removeFrame g { s with zon := x } = { removeFrame g s with zon := x } := by
  have hin : inTransmission { s with zon := x } g = inTransmission s g := rfl
  rw [removeFrame, removeFrame, hin]
  split <;> rfl

theorem removeFrame_queue {g : Nat} {s : State} {f : TxFrame} (h : f ∈ (removeFrame g s).bus.queue) : f ∈ s.bus.queue := by
  rw [removeFrame] at h
  split at h
  · exact h
  · exact List.mem_of_mem_filter h

/-- The one own claim is lost with its group. -/
theorem loseOwnClaims_voided {frames : List Nat} {g : Nat} (gs : List (Nat × Nat)) (hsome : frames ≠ [])
    (hall : ∀ k ∈ frames, k = g) (s : State) :
    loseOwnClaims frames (voidGroups gs s) = { removeFrame g s with zon := { s.zon with
      view := s.zon.view.mapIdx fun _ => ZoneEntry.voidedBy gs
      reqs := backToHead g s.zon.reqs } } := by
  simp only [loseOwnClaims_one frames g hsome hall, voidGroups_eq, removeFrame_setZon]

/-! ## A CLAIM judged (R123) -/

section
variable {src group : Nat} {zones : ZoneSet} {s : State}

theorem judgeClaim_held (hsrc : src ≠ ownNo s)
    (hheld : ∃ z ∈ Bits.toList zones, ∃ st f, zoneAt s z = .held st f ∧ st ≠ src) :
    judgeClaim src group zones s = queueReassert true (Bits.toList zones) s := by
  obtain ⟨z, hz, st, f, hat, hne⟩ := hheld
  refine (if_pos (List.any_eq_true.2 ⟨z, hz, ?_⟩)).trans (if_neg hsrc)
  rw [hat]
  exact bne_iff_ne.2 hne

/-- Steps 2 and 3: no zone is HELD by another station than the source. -/
theorem judgeClaim_notHeld (hheld : ∀ z ∈ Bits.toList zones, ∀ st f, zoneAt s z = .held st f → st = src) :
    judgeClaim src group zones s =
      if (Bits.toList zones).any (fun z => match zoneAt s z with
        | .pending st _ _ _ => decide (st < src)
        | .free | .held _ _ => false) then s
      else
        let gs := groupsIn s zones (fun st => decide (src < st))
        recordClaim src group zones (oweTrialIf (!gs.isEmpty)
          (loseOwnClaims ((gs.filter fun g => g.1 == ownNo s).map (·.2)) (voidGroups gs s))) := by
  refine (if_neg ?_).trans rfl
  rw [List.any_eq_true]
  rintro ⟨z, hz, hother⟩
  have hcase := hheld z hz
  generalize zoneAt s z = e at hother hcase
  cases e with
  | free => cases hother
  | pending st g w f => cases hother
  | held st f => exact bne_iff_ne.1 hother (hcase st f rfl)

theorem judgeClaim_lowerPending (hheld : ∀ z ∈ Bits.toList zones, ∀ st f, zoneAt s z = .held st f → st = src)
    (hlower : ∃ z ∈ Bits.toList zones, ∃ st g w f, zoneAt s z = .pending st g w f ∧ st < src) :
    judgeClaim src group zones s = s := by
  obtain ⟨z, hz, st, g, w, f, hat, hlt⟩ := hlower
  refine (judgeClaim_notHeld hheld).trans (if_pos (List.any_eq_true.2 ⟨z, hz, ?_⟩))
  rw [hat]
  exact decide_eq_true hlt

theorem judgeClaim_records (hheld : ∀ z ∈ Bits.toList zones, ∀ st f, zoneAt s z = .held st f → st = src)
    (hlower : ∀ z ∈ Bits.toList zones, ∀ st g w f, zoneAt s z = .pending st g w f → src ≤ st) :
    judgeClaim src group zones s =
      let gs := groupsIn s zones (fun st => decide (src < st))
      recordClaim src group zones (oweTrialIf (!gs.isEmpty)
        (loseOwnClaims ((gs.filter fun g => g.1 == ownNo s).map (·.2)) (voidGroups gs s))) := by
  refine (judgeClaim_notHeld hheld).trans (if_neg ?_)
  rw [List.any_eq_true]
  rintro ⟨z, hz, hlow⟩
  have hcase := hlower z hz
  generalize zoneAt s z = e at hlow hcase
  cases e with
  | free => cases hlow
  | held st f => cases hlow
  | pending st g w f => exact absurd (of_decide_eq_true hlow) (Nat.not_lt.2 (hcase st g w f rfl))

theorem recordClaim_eq (hheld : ∀ z, Bits.mem zones z = true → ∀ st f, zoneAt s z ≠ .held st f) :
    recordClaim src group zones s = { s with zon := { s.zon with
      view := s.zon.view.mapIdx fun z e => if Bits.mem zones z then .pending src group (some (s.now + 30000)) none else e } } := by
  refine congrArg (fun v => { s with zon := { s.zon with view := v } }) (view_mapIdx_congr fun z => ?_)
  by_cases hz : Bits.mem zones z = true
  · have hcase := hheld z hz
    rw [if_pos hz, if_pos hz]
    generalize zoneAt s z = e at hcase
    cases e with
    | free => rfl
    | pending st g w f => rfl
    | held st f => exact absurd rfl (hcase st f)
  · rw [if_neg hz, if_neg hz]

/-- All zones FREE: the claim is recorded. -/
theorem judgeClaim_free (hfree : ∀ z ∈ Bits.toList zones, zoneAt s z = .free) :
    judgeClaim src group zones s = { s with zon := { s.zon with
      view := s.zon.view.mapIdx fun z e => if Bits.mem zones z then .pending src group (some (s.now + 30000)) none else e } } := by
  have hgroups : groupsIn s zones (fun st => decide (src < st)) = [] :=
    groupsIn_none fun z hz st g w f hpend => by rw [hfree z hz] at hpend; cases hpend
  rw [judgeClaim_records (fun z hz st f hh => by rw [hfree z hz] at hh; cases hh)
    (fun z hz st g w f hh => by rw [hfree z hz] at hh; cases hh)]
  simp only [hgroups, List.filter_nil, List.map_nil, loseOwnClaims_nil, voidGroups_nil, List.isEmpty_nil, Bool.not_true]
  refine recordClaim_eq (s := s) fun z hz st f hh => ?_
  rw [hfree z ((mem_toList zones z).2 ⟨mem_lt hz, hz⟩)] at hh
  cases hh

/-- The zones of an own claim, and FREE ones, claimed by a lower number: the own claim is lost (step 3). -/
theorem judgeClaim_takesOwn {g : Nat} (hsrc : src < ownNo s)
    (hzones : ∀ z ∈ Bits.toList zones, zoneAt s z = .free ∨ ∃ w f, zoneAt s z = .pending (ownNo s) g w f)
    (hsome : ∃ z ∈ Bits.toList zones, zoneAt s z ≠ .free) :
    judgeClaim src group zones s = { removeFrame g s with zon := { s.zon with
      trialDue := true, reqs := backToHead g s.zon.reqs
      view := s.zon.view.mapIdx fun z e =>
        if Bits.mem zones z then .pending src group (some (s.now + 30000)) none
        else match e with
          | .pending st k w f => if st = ownNo s ∧ k = g then .free else .pending st k w f
          | _ => e } } := by
  have hmem : ∀ st k, (st, k) ∈ groupsIn s zones (fun st => decide (src < st)) ↔ st = ownNo s ∧ k = g := by
    intro st k
    rw [mem_groupsIn]
    constructor
    · rintro ⟨⟨z, hz, w, f, hpend⟩, -⟩
      rcases hzones z hz with hfree | ⟨w', f', hown⟩
      · rw [hfree] at hpend
        cases hpend
      · rw [hown] at hpend
        cases hpend
        exact ⟨rfl, rfl⟩
    · rintro ⟨rfl, rfl⟩
      obtain ⟨z, hz, hne⟩ := hsome
      obtain ⟨w, f, hown⟩ := (hzones z hz).resolve_left hne
      exact ⟨⟨z, hz, w, f, hown⟩, decide_eq_true hsrc⟩
  have hheld : ∀ z ∈ Bits.toList zones, ∀ st f, zoneAt s z ≠ .held st f := by
    intro z hz st f hh
    rcases hzones z hz with hfree | ⟨w, f', hown⟩
    · rw [hfree] at hh
      cases hh
    · rw [hown] at hh
      cases hh
  rw [judgeClaim_records (fun z hz st f hh => absurd hh (hheld z hz st f)) (fun z hz st k w f hh => by
    rcases hzones z hz with hfree | ⟨w', f', hown⟩
    · rw [hfree] at hh
      cases hh
    · rw [hown] at hh
      cases hh
      exact Nat.le_of_lt hsrc)]
  generalize hgs : groupsIn s zones (fun st => decide (src < st)) = gs at hmem
  have hin : (ownNo s, g) ∈ gs := (hmem _ _).2 ⟨rfl, rfl⟩
  have hempty : gs.isEmpty = false := by
    cases gs with
    | nil => cases hin
    | cons x l => rfl
  have hframes : (gs.filter fun x => x.1 == ownNo s).map (·.2) ≠ [] := List.ne_nil_of_mem (mem_ownFrames.2 hin)
  have hlost := loseOwnClaims_voided gs hframes (fun k hk => ((hmem _ _).1 (mem_ownFrames.1 hk)).2) s
  have hview : ∀ z, ZoneEntry.voidedBy gs (zoneAt s z) = match zoneAt s z with
      | .pending st k w f => if st = ownNo s ∧ k = g then .free else .pending st k w f
      | _ => zoneAt s z := by
    intro z
    cases zoneAt s z with
    | free => rfl
    | held st f => rfl
    | pending st k w f => exact if_congr (hmem st k) rfl rfl
  let u : State := { removeFrame g s with zon := { s.zon with
    view := s.zon.view.mapIdx fun _ => ZoneEntry.voidedBy gs, reqs := backToHead g s.zon.reqs, trialDue := true } }
  have hu : oweTrialIf (!gs.isEmpty)
      (loseOwnClaims ((gs.filter fun x => x.1 == ownNo s).map (·.2)) (voidGroups gs s)) = u := by
    rw [hlost, hempty]
    rfl
  have hnotHeld : ∀ z, Bits.mem zones z = true → ∀ st f, zoneAt u z ≠ .held st f := by
    intro z hz st f hh
    rcases zoneAt_mapIdx_cases (s := s) (u := u) rfl z with hfree | hvoid
    · rw [hfree] at hh
      cases hh
    · have hcase := hheld z ((mem_toList zones z).2 ⟨mem_lt hz, hz⟩)
      rw [hvoid] at hh
      generalize zoneAt s z = e at hh hcase
      cases e with
      | free => cases hh
      | held st f => exact hcase st f rfl
      | pending st k w f =>
        simp only [ZoneEntry.voidedBy] at hh
        split at hh <;> cases hh
  have hrecord := recordClaim_eq (src := src) (group := group) (s := u) hnotHeld
  refine (congrArg (recordClaim src group zones) hu).trans (hrecord.trans ?_)
  have hnow : u.now = s.now := removeFrame_now (s := s) g
  refine congrArg (fun v => { removeFrame g s with zon := { s.zon with
    trialDue := true, reqs := backToHead g s.zon.reqs, view := v } }) ?_
  rw [hnow]
  refine (List.mapIdx_mapIdx ..).trans (view_mapIdx_congr fun z => ?_)
  exact if_congr Iff.rfl rfl (hview z)

end

end Sys2Proof.Machine

/-! SUPPORT. Proofs about reasserts heard (R126, R127): the view, the holds lost, the groups voided. -/

namespace Sys2Proof.Machine

/-! ## A reassert heard: the view (R126) -/

theorem pruneReasserts_none {s : State} (h : ∀ f ∈ s.bus.queue, ∀ z, f.content ≠ .claim true z) : pruneReasserts s = s := by
  have hq : s.bus.queue.filter (fun f => !staleReassert s f.content || s.bus.current == some f.id) = s.bus.queue := by
    rw [List.filter_eq_self]
    intro f hf
    have hkeep : staleReassert s f.content = false := by
      have hc := h f hf
      generalize f.content = c at hc
      cases c with
      | claim b z => cases b with
        | true => exact absurd rfl (hc z)
        | false => rfl
      | _ => rfl
    rw [hkeep]
    rfl
  simp only [pruneReasserts, removeFrames, State.modBus, hq]

theorem loseOwnClaims_view (frames : List Nat) (s : State) : (loseOwnClaims frames s).zon.view = s.zon.view := by
  have hfold : (frames.foldl (fun s g => removeFrame g s) s).zon = s.zon := by
    induction frames generalizing s with
    | nil => rfl
    | cons g l ih => rw [List.foldl_cons, ih, removeFrame_zon]
  show (frames.foldl (fun s g => removeFrame g s) s).zon.view = _
  rw [hfold]

theorem oweTrialIf_view (b : Bool) (s : State) : (oweTrialIf b s).zon.view = s.zon.view := by
  cases b <;> rfl

theorem oweTrialIf_eq (b : Bool) {s : State} (hdue : s.zon.trialDue = false) :
    oweTrialIf b s = { s with zon := { s.zon with trialDue := b } } := by
  cases b with
  | true => rfl
  | false =>
    have hzon : ({ s.zon with trialDue := false } : Zon) = s.zon := by rw [← hdue]
    rw [hzon]
    rfl

section
variable {src : Nat} {zones : ZoneSet} {s : State}

theorem takeReassert_view : (takeReassert src zones s).zon.view = s.zon.view.mapIdx fun z e =>
    ZoneEntry.voidedBy (groupsIn s zones fun _ => true) (if Bits.mem zones z then reassertEntry (ownNo s) src e else e) := by
  simp only [takeReassert, pruneReasserts, removeFrames, State.modBus, oweTrialIf_view, loseOwnClaims_view, voidGroups_eq]
  exact List.mapIdx_mapIdx ..

theorem takeReassert_iml : (takeReassert src zones s).iml = s.iml := by
  have hfold : ∀ (frames : List Nat) (u : State), (frames.foldl (fun s g => removeFrame g s) u).iml = u.iml := by
    intro frames
    induction frames with
    | nil => exact fun _ => rfl
    | cons g l ih => exact fun u => (ih _).trans (removeFrame_iml (s := u) g)
  have howe : ∀ b (u : State), (oweTrialIf b u).iml = u.iml := fun b u => by cases b <;> rfl
  simp only [takeReassert, pruneReasserts, removeFrames, State.modBus, howe]
  exact hfold _ _

/-- After a reassert of another station, the zones it named that are still held for an own figure. -/
theorem heldForFigure_reasserted {z : Nat} (hz : z ∈ Bits.toList zones) :
    heldForFigure (takeReassert src zones s) z = (heldForFigure s z && decide (ownNo s < src)) := by
  have hown : ownNo (takeReassert src zones s) = ownNo s := by rw [ownNo, takeReassert_iml, ← ownNo]
  have hmem := ((mem_toList zones z).1 hz).2
  by_cases hlen : z < s.zon.view.length
  · have hat : zoneAt (takeReassert src zones s) z = ZoneEntry.voidedBy (groupsIn s zones fun _ => true)
        (if Bits.mem zones z then reassertEntry (ownNo s) src (zoneAt s z) else zoneAt s z) :=
      zoneAt_mapIdx takeReassert_view hlen
    rw [if_pos hmem] at hat
    rw [heldForFigure, heldForFigure, hat, hown]
    rcases zoneAt s z with _ | ⟨st, g, w, f⟩ | ⟨st, _ | f⟩
    · rfl
    · rfl
    · rfl
    · by_cases hst : st = ownNo s
      · by_cases hlt : ownNo s < src
        · simp [reassertEntry, ZoneEntry.voidedBy, hst, hlt]
        · simp [reassertEntry, ZoneEntry.voidedBy, hst, hlt]
      · simp [reassertEntry, ZoneEntry.voidedBy, hst]
  · have hfree : ∀ u : State, u.zon.view.length ≤ z → heldForFigure u z = false := fun u hu => by
      rw [heldForFigure, zoneAt, List.getD_eq_default _ _ hu]
    have hout : s.zon.view.length ≤ z := Nat.le_of_not_lt hlen
    rw [hfree _ hout, hfree _ (by rw [takeReassert_view, List.length_mapIdx]; exact hout)]
    rfl

theorem takeReassert_noGroup (hnone : groupsIn s zones (fun _ => true) = [])
    (hqueue : ∀ f ∈ s.bus.queue, ∀ z, f.content ≠ .claim true z) :
    takeReassert src zones s = { s with zon := { s.zon with
      view := s.zon.view.mapIdx fun z e => if Bits.mem zones z then reassertEntry (ownNo s) src e else e } } := by
  simp only [takeReassert, hnone, List.filter_nil, List.map_nil, loseOwnClaims_nil, voidGroups_nil, List.isEmpty_nil]
  generalize hfreed : List.any _ _ = freed
  obtain rfl : freed = false := by
    rw [← hfreed, List.any_eq_false]
    intro e _
    cases groupOf e <;> simp
  exact pruneReasserts_none hqueue

/-! ## A reassert heard: the holds lost, the answer (R126, R127) -/

theorem takeReassertFrame_station (hstation : 1 ≤ src ∧ src ≤ 30) (hown : src ≠ ownNo s) (hzero : Bits.mem zones 0 = false) :
    takeReassertFrame src zones s =
      let lost := holdsLost s src zones
      let s1 := lost.foldl (fun s x => raiseFault .zoneLost x.1 s) (takeReassert src zones s)
      let s2 := ((lost.map (·.2)).dedup).foldl figLosesZone s1
      if ownNo s < src then queueReassert false (Bits.toList zones) s2 else s2 :=
  if_pos ⟨decide_eq_true hstation, hown, hzero⟩

theorem figureLosing_none {z : Nat} (h : heldForFigure s z = false ∨ ownNo s < src) : figureLosing s src z = none := by
  rw [figureLosing]
  rw [heldForFigure] at h
  generalize zoneAt s z = e at h
  rcases e with _ | ⟨st, g, w, f⟩ | ⟨st, _ | f⟩
  · rfl
  · rfl
  · rfl
  · refine if_neg fun ⟨hst, hlt⟩ => ?_
    rcases h with h | h
    · exact absurd h (by simp [hst])
    · exact absurd (hst ▸ hlt) (Nat.lt_asymm h)

/-- No hold is lost: the view is worked, and the kept zones are answered for. -/
theorem takeReassertFrame_kept (hstation : 1 ≤ src ∧ src ≤ 30) (hown : src ≠ ownNo s) (hzero : Bits.mem zones 0 = false)
    (hkept : ∀ z ∈ Bits.toList zones, heldForFigure s z = false ∨ ownNo s < src) :
    takeReassertFrame src zones s =
      if ownNo s < src then queueReassert false (Bits.toList zones) (takeReassert src zones s)
      else takeReassert src zones s := by
  have hlost : holdsLost s src zones = [] := by
    rw [holdsLost, List.filterMap_eq_nil_iff]
    intro z hz
    rw [figureLosing_none (hkept z hz)]
    rfl
  rw [takeReassertFrame_station hstation hown hzero, hlost]
  rfl

/-- No named zone is held for an own figure: there is no more to it than the view. -/
theorem takeReassertFrame_notMine (hstation : 1 ≤ src ∧ src ≤ 30) (hown : src ≠ ownNo s) (hzero : Bits.mem zones 0 = false)
    (hmine : ∀ z ∈ Bits.toList zones, heldForFigure s z = false) :
    takeReassertFrame src zones s = takeReassert src zones s := by
  rw [takeReassertFrame_kept hstation hown hzero fun z hz => .inl (hmine z hz), queueReassert_nothing, ite_self]
  rw [List.filter_eq_nil_iff]
  intro z hz
  rw [heldForFigure_reasserted hz, hmine z hz]
  simp

/-- The entry is of one of these groups. -/
def ZoneEntry.inGroups (gs : List (Nat × Nat)) : ZoneEntry → Bool
  | .pending st g _ _ => decide ((st, g) ∈ gs)
  | _ => false

/-- Whether voiding a reassert's groups frees a zone that it does not name. -/
def freesOthers (zones : ZoneSet) (s : State) : Bool := (List.range s.zon.view.length).any fun z =>
  !Bits.mem zones z && (zoneAt s z).inGroups (groupsIn s zones fun _ => true)

theorem any_mapIdx_eq {f : Nat → ZoneEntry → ZoneEntry} {p : ZoneEntry → Bool} {q : Nat → Bool}
    (h : ∀ z, p (f z (zoneAt s z)) = q z) :
    (s.zon.view.mapIdx f).any p = (List.range s.zon.view.length).any q := by
  rw [Bool.eq_iff_iff, List.any_eq_true, List.any_eq_true]
  constructor
  · rintro ⟨e, he, hp⟩
    obtain ⟨z, hz, rfl⟩ := List.getElem_of_mem he
    rw [List.length_mapIdx] at hz
    rw [List.getElem_mapIdx, zoneAt_getElem s z hz, h] at hp
    exact ⟨z, List.mem_range.2 hz, hp⟩
  · rintro ⟨z, hz, hq⟩
    have hlen := List.mem_range.1 hz
    refine ⟨f z (zoneAt s z), ?_, (h z).trans hq⟩
    rw [← zoneAt_getElem s z hlen]
    exact List.mem_mapIdx.2 ⟨z, hlen, rfl⟩

theorem inGroups_reassertEntry (gs : List (Nat × Nat)) (own : Nat) (e : ZoneEntry) :
    (reassertEntry own src e).inGroups gs = false := by
  rcases e with _ | ⟨st, g, w, f⟩ | ⟨st, _ | f⟩
  · rfl
  · rfl
  · rfl
  · rw [reassertEntry]
    split <;> rfl

/-- A reassert that names zones of groups: each is voided as a whole, the own one, `g`, with its claim lost. -/
theorem takeReassert_voids {g : Nat} (hown : ∀ k, (ownNo s, k) ∈ groupsIn s zones (fun _ => true) → k = g)
    (hqueue : ∀ f ∈ s.bus.queue, ∀ z, f.content ≠ .claim true z) (hdue : s.zon.trialDue = false) :
    takeReassert src zones s =
      let lost := decide ((ownNo s, g) ∈ groupsIn s zones fun _ => true)
      { (if lost then removeFrame g s else s) with zon := { s.zon with
        view := s.zon.view.mapIdx fun z e => ZoneEntry.voidedBy (groupsIn s zones fun _ => true)
          (if Bits.mem zones z then reassertEntry (ownNo s) src e else e)
        trialDue := freesOthers zones s || lost
        reqs := if lost then backToHead g s.zon.reqs else s.zon.reqs } } := by
  have hfrees : freesOthers zones s =
      (s.zon.view.mapIdx fun z e => if Bits.mem zones z then reassertEntry (ownNo s) src e else e).any fun e =>
        e.inGroups (groupsIn s zones fun _ => true) := by
    refine (any_mapIdx_eq fun z => ?_).symm
    by_cases hz : Bits.mem zones z = true
    · simp [hz, inGroups_reassertEntry]
    · simp [hz]
  simp only [takeReassert]
  generalize hany : List.any _ _ = freed
  obtain rfl : freed = freesOthers zones s := by
    rw [← hany, hfrees]
    exact congrArg (List.any _) (funext fun e => by cases e <;> rfl)
  generalize groupsIn s zones (fun _ => true) = gs at hown
  by_cases hin : (ownNo s, g) ∈ gs
  · have hframes : (gs.filter fun x => x.1 == ownNo s).map (·.2) ≠ [] := List.ne_nil_of_mem (mem_ownFrames.2 hin)
    have hempty := List.isEmpty_eq_false_iff.2 hframes
    have hlost := (loseOwnClaims_voided gs hframes (fun k hk => hown k (mem_ownFrames.1 hk))
      (mapView (fun z e => if Bits.mem zones z then reassertEntry (ownNo s) src e else e) s)).trans
      (by simp only [mapView, State.modZon, removeFrame_setZon, List.mapIdx_mapIdx]; rfl)
    rw [hempty, hlost]
    simp only [hin, decide_true, if_true, Bool.not_false, Bool.or_true]
    exact pruneReasserts_none fun f hf => hqueue f (removeFrame_queue (g := g) hf)
  · have hframes : (gs.filter fun x => x.1 == ownNo s).map (·.2) = [] := by
      rw [List.eq_nil_iff_forall_not_mem]
      intro k hk
      have hk' := mem_ownFrames.1 hk
      exact hin (hown k hk' ▸ hk')
    rw [hframes, loseOwnClaims_nil, voidGroups_eq]
    simp only [hin, decide_false, Bool.false_eq_true, if_false, List.isEmpty_nil, Bool.not_true, Bool.or_false]
    refine (pruneReasserts_none ?_).trans ?_
    · cases freesOthers zones s <;> exact hqueue
    · refine (oweTrialIf_eq _ (by exact hdue)).trans ?_
      simp only [mapView, State.modZon, List.mapIdx_mapIdx]
      rfl

end

end Sys2Proof.Machine

/-! SUPPORT. Proofs about holds lost to a reassert (R111, R126), and claims and reasserts heard as events. -/

namespace Sys2Proof.Machine

/-! ## A figure loses a zone (R111) -/

section
variable {f t : Nat} {r : RunRec} {x : Fig} {u : State}

theorem requestRun_head {zones : List Nat} (hzones : zones ≠ []) (hnone : ∀ q ∈ u.zon.reqs, q.figure ≠ f) :
    requestRun true f zones u = { u with zon := { u.zon with
      trialDue := true, reqs := ⟨f, zones, .waiting⟩ :: u.zon.reqs } } := by
  rw [requestRun, if_neg hzones, enterRequest, withdrawRequest_idle f u hnone]
  rfl

/-- A figure in MOVING or PAUSED stops and asks for its run's zones again. -/
theorem figLosesZone_drives (hfig : u.fig = x) (hnow : u.now = t) (hstate : (figRun u f).state ∈ [.moving, .paused])
    (hrun : (figRun u f).run = some r) (hnone : ∀ q ∈ u.zon.reqs, q.figure ≠ f) (hzones : r.zones ≠ []) :
    figLosesZone u f = { u with
      fig := { x with run := x.run.set f { (figRun u f).halted t with state := .waitZone, run := some r } }
      zon := { u.zon with trialDue := true, reqs := ⟨f, r.zones.map (·.1), .waiting⟩ :: u.zon.reqs } } := by
  subst hfig hnow
  have hf : f < u.fig.run.length := fig_range fun h => by rw [h] at hrun; cases hrun
  have hstops : modFigRun f (fun q => { q with state := .waitZone }) (motorOff f u) =
      putRun f { (figRun u f).halted u.now with state := .waitZone, run := some r } u := by
    rw [motorOff, modFigRun_mod, modFigRun_eq_putRun, ← hrun]
    rfl
  have hasks : figLosesZone u f = requestRun true f (r.zones.map (·.1))
      (modFigRun f (fun q => { q with state := .waitZone }) (motorOff f u)) := by
    rw [figLosesZone, hrun]
    rcases List.mem_cons.1 hstate with h | h
    · rw [h]
    · rw [List.mem_singleton.1 h]
  rw [hasks, hstops, requestRun_head (by simpa using hzones) (by exact hnone)]
  rfl

/-- A figure homing in SEEK or TO_PARK stops and asks for its homing zones again. -/
theorem figLosesZone_homes (hfig : u.fig = x) (hnow : u.now = t) (hstate : (figRun u f).state = .homing)
    (hrun : (figRun u f).run = some r) (hphase : r.phase ≠ .claim) (hnone : ∀ q ∈ u.zon.reqs, q.figure ≠ f)
    (hzones : r.zones ≠ []) :
    figLosesZone u f = { u with
      fig := { x with run := x.run.set f { (figRun u f).halted t with
        run := some { r with phase := .claim, resume := r.phase, limit := r.limit.hold t } } }
      zon := { u.zon with trialDue := true, reqs := ⟨f, r.zones.map (·.1), .waiting⟩ :: u.zon.reqs } } := by
  subst hfig hnow
  have hstops : modRun f (fun r => { r with phase := .claim, resume := r.phase, limit := r.limit.hold u.now })
      (motorOff f u) = putRun f { (figRun u f).halted u.now with
        run := some { r with phase := .claim, resume := r.phase, limit := r.limit.hold u.now } } u := by
    rw [modRun, motorOff, modFigRun_mod, modFigRun_eq_putRun]
    simp only [FigRun.off, hrun, Option.map_some]
    rfl
  have hasks : figLosesZone u f = requestRun true f (r.zones.map (·.1))
      (modRun f (fun r => { r with phase := .claim, resume := r.phase, limit := r.limit.hold u.now }) (motorOff f u)) := by
    rw [figLosesZone, hstate, hrun]
    exact if_neg hphase
  rw [hasks, hstops, requestRun_head (by simpa using hzones) (by exact hnone)]
  rfl

/-- A figure that neither drives nor homes only loses the zone. -/
theorem figLosesZone_still (hstate : (figRun u f).state ∈ [.parked, .jammed, .failed, .unhomed, .waitZone]) :
    figLosesZone u f = u := by
  obtain h | h | h | h | h : (figRun u f).state = .parked ∨ (figRun u f).state = .jammed ∨ (figRun u f).state = .failed
      ∨ (figRun u f).state = .unhomed ∨ (figRun u f).state = .waitZone := by simpa using hstate
  all_goals rw [figLosesZone, h]

theorem figLosesZone_claiming (hstate : (figRun u f).state = .homing) (hrun : (figRun u f).run = some r)
    (hphase : r.phase = .claim) : figLosesZone u f = u := by
  rw [figLosesZone, hstate, hrun]
  exact if_pos hphase

end

/-! ## The holds that one figure loses (R126, R127) -/

theorem filterMap_eq_map_filter {α β : Type} {g : α → Option β} {p : α → Bool} {k : α → β} :
    ∀ {l : List α}, (∀ a ∈ l, g a = if p a then some (k a) else none) → l.filterMap g = (l.filter p).map k
  | [], _ => rfl
  | a :: l, h => by
    have ih := filterMap_eq_map_filter fun b hb => h b (List.mem_cons_of_mem a hb)
    have ha := h a List.mem_cons_self
    cases hp : p a with
    | true => rw [List.filterMap_cons_some (by rw [ha, hp]; rfl), List.filter_cons_of_pos hp, ih]; rfl
    | false => rw [List.filterMap_cons_none (by rw [ha, hp]; rfl), List.filter_cons_of_neg (by simp [hp]), ih]

theorem raiseFaults_keep (c : FaultCode) (l : List Nat) (s : State) :
    (l.foldl (fun u z => raiseFault c z u) s).fig = s.fig ∧ (l.foldl (fun u z => raiseFault c z u) s).zon = s.zon
      ∧ (l.foldl (fun u z => raiseFault c z u) s).now = s.now := by
  induction l generalizing s with
  | nil => exact ⟨rfl, rfl, rfl⟩
  | cons z l ih =>
    obtain ⟨hfig, hzon, hnow⟩ := ih (raiseFault c z s)
    exact ⟨hfig.trans (raiseFault_fig ..), hzon.trans (raiseFault_zon ..), hnow.trans (raiseFault_now ..)⟩

section
variable {src : Nat} {zones : ZoneSet} {s : State}

/-- The zones named that are held for own figures. -/
def mineOf (zones : ZoneSet) (s : State) : List Nat := (Bits.toList zones).filter (heldForFigure s)

theorem mem_mineOf {z : Nat} : z ∈ mineOf zones s ↔ Bits.mem zones z = true ∧ heldForFigure s z = true := by
  rw [mineOf, List.mem_filter, mem_toList]
  exact ⟨fun ⟨⟨_, hz⟩, hheld⟩ => ⟨hz, hheld⟩, fun ⟨hz, hheld⟩ => ⟨⟨mem_lt hz, hz⟩, hheld⟩⟩

theorem takeReassertFrame_loses {f : Nat} (hstation : 1 ≤ src ∧ src ≤ 30) (hzero : Bits.mem zones 0 = false)
    (hlow : src < ownNo s) (hsome : mineOf zones s ≠ []) (hall : ∀ z ∈ mineOf zones s, zoneAt s z = .held (ownNo s) (some f)) :
    takeReassertFrame src zones s =
      figLosesZone ((mineOf zones s).foldl (fun u z => raiseFault .zoneLost z u) (takeReassert src zones s)) f := by
  have hlost : holdsLost s src zones = (mineOf zones s).map fun z => (z, f) := by
    refine filterMap_eq_map_filter fun z hz => ?_
    cases hheld : heldForFigure s z with
    | true =>
      rw [figureLosing, hall z (mem_mineOf.2 ⟨((mem_toList zones z).1 hz).2, hheld⟩)]
      exact congrArg (Option.map fun f => (z, f)) (if_pos (show ownNo s = ownNo s ∧ src < ownNo s from ⟨rfl, hlow⟩))
    | false =>
      rw [figureLosing_none (.inl hheld)]
      rfl
  have hfigs : (((mineOf zones s).map fun z => (z, f)).map (·.2)).dedup = [f] := by
    rw [List.eq_replicate_of_mem (a := f) (l := ((mineOf zones s).map fun z => (z, f)).map (·.2)) (by simp)]
    exact List.replicate_dedup (by simpa using hsome)
  rw [takeReassertFrame_station hstation (Nat.ne_of_lt hlow) hzero, hlost]
  simp only [hfigs, if_neg (Nat.lt_asymm hlow), List.foldl_map, List.foldl_cons, List.foldl_nil]

end

/-! ## A CLAIM heard as an event -/

section
variable {t : Nat} {src : Byte} {p : List Byte} {zones : ZoneSet} {s : State}

theorem exec_claim (hh : Hears t src s) (hp : parseClaim p = some (false, zones)) (hlow : 1 ≤ src.toNat)
    (hhigh : src.toNat ≤ 30) (hzones : zones ≠ 0) (hzero : Bits.mem zones 0 = false) :
    exec (.claim t src p) s =
      .next (settleZones trialFuel (judgeClaim src.toNat t zones (heardAt t src s))) := by
  have htakes : takeClaim src.toNat zones (heardAt t src s) = judgeClaim src.toNat t zones (heardAt t src s) :=
    if_pos ⟨decide_eq_true ⟨hlow, hhigh⟩, (show src.toNat ≠ ownNo s from hears_not_own hh hlow), hzones, hzero⟩
  refine (zoneEvent_heard hh false _).trans ?_
  rw [hp, ← htakes]
  rfl

theorem exec_reassert (hh : Hears t src s) (hp : parseClaim p = some (true, zones)) :
    exec (.reassert t src p) s =
      .next (settleZones trialFuel (takeReassertFrame src.toNat zones (heardAt t src s))) := by
  refine (zoneEvent_heard hh false _).trans ?_
  rw [hp]
  rfl

end

end Sys2Proof.Machine

/-! SUPPORT. Proofs about claims and reasserts heard, case by case (R123, R126, R127). -/

namespace Sys2Proof.Machine

section
variable {t : Nat} {src : Byte} {p : List Byte} {zones : ZoneSet} {s : State}

/-- R123: zones held for own figures, none named in a reassert of the last 100 ms, are reasserted. -/
theorem claim_answered (hh : Hears t src s) (hrest : ZonesAtRest s) (hp : parseClaim p = some (false, zones))
    (hlow : 1 ≤ src.toNat) (hhigh : src.toNat ≤ 30) (hzones : zones ≠ 0) (hzero : Bits.mem zones 0 = false)
    (hsome : mineOf zones s ≠ [])
    (hlate : ∀ z ∈ mineOf zones s, ∀ r, s.zon.reassertAt.getD z none = some r → r + 100000 ≤ t)
    (hsends : Sends s) (hroom : s.bus.queue.length < 8) :
    exec (.claim t src p) s = .next { heardAt t src s with
      zon := { s.zon with reassertAt := s.zon.reassertAt.mapIdx fun z r => if z ∈ mineOf zones s then some t else r }
      bus := (heardAt t src s).bus.queued (.claim true (Bits.ofList 64 (mineOf zones s))) } := by
  obtain ⟨z, hz⟩ := List.exists_mem_of_ne_nil _ hsome
  obtain ⟨hmem, hheld⟩ := mem_mineOf.1 hz
  obtain ⟨f, hat⟩ := heldForFigure_iff.1 hheld
  have hown := hears_not_own hh hlow
  have hnamed : (Bits.toList zones).filter (fun z => heldForFigure (heardAt t src s) z
      && (!true || reassertAllowed (heardAt t src s) z)) = mineOf zones s := by
    refine List.filter_congr fun z hz => ?_
    show (heldForFigure s z && reassertAllowed { s with now := t } z) = heldForFigure s z
    cases hf : heldForFigure s z with
    | false => rfl
    | true =>
      have hz' := hlate z (mem_mineOf.2 ⟨((mem_toList zones z).1 hz).2, hf⟩)
      show reassertAllowed { s with now := t } z = true
      rw [reassertAllowed]
      show (match s.zon.reassertAt.getD z none with
        | none => true
        | some r => decide (r + 100000 ≤ t)) = true
      cases hr : s.zon.reassertAt.getD z none with
      | none => rfl
      | some r => exact decide_eq_true (hz' r hr)
  rw [exec_claim hh hp hlow hhigh hzones hzero,
    judgeClaim_held (s := heardAt t src s) hown ⟨z, (mem_toList zones z).2 ⟨mem_lt hmem, hmem⟩, _, _, hat, hown.symm⟩,
    queueReassert_queues (s := heardAt t src s) hnamed hsome hsends hroom, settleZones_rest (by exact hrest)]
  rfl

end

/-! ## A reassert heard as an event -/

/-- An entry that a reassert names and that is not held for an own figure becomes the source's. -/
theorem reassertEntry_notMine {s : State} {src z : Nat} (h : heldForFigure s z = false) :
    reassertEntry (ownNo s) src (zoneAt s z) = .held src none := by
  rw [heldForFigure] at h
  generalize zoneAt s z = e at h
  rcases e with _ | ⟨st, g, w, f⟩ | ⟨st, _ | f⟩
  · rfl
  · rfl
  · rfl
  · have hne : (st == ownNo s) = false := h
    exact if_neg fun ⟨hst, _⟩ => beq_eq_false_iff_ne.1 hne hst

theorem reassertEntry_lower {own src : Nat} (h : src < own) (e : ZoneEntry) : reassertEntry own src e = .held src none := by
  rcases e with _ | ⟨st, g, w, f⟩ | ⟨st, _ | f⟩
  · rfl
  · rfl
  · rfl
  · exact if_neg fun ⟨_, hlt⟩ => Nat.lt_asymm h hlt

theorem reassertEntry_kept {s : State} {src z : Nat} (hsrc : ownNo s < src) (h : heldForFigure s z = true) :
    reassertEntry (ownNo s) src (zoneAt s z) = zoneAt s z := by
  obtain ⟨f, hat⟩ := heldForFigure_iff.1 h
  rw [hat]
  exact if_pos ⟨rfl, hsrc⟩

/-- A reassert of station `src` is heard by a station at rest, no reassert of its own waiting. -/
structure HearsReassert (t : Nat) (src : Byte) (p : List Byte) (zones : ZoneSet) (s : State) : Prop where
  hears : Hears t src s
  rest : ZonesAtRest s
  parses : parseClaim p = some (true, zones)
  station : 1 ≤ src.toNat ∧ src.toNat ≤ 30
  zero : Bits.mem zones 0 = false
  queue : ∀ f ∈ s.bus.queue, ∀ z, f.content ≠ .claim true z

namespace HearsReassert
variable {t : Nat} {src : Byte} {p : List Byte} {zones : ZoneSet} {s : State}

theorem exec_eq (h : HearsReassert t src p zones s) :
    exec (.reassert t src p) s = .next (settleZones trialFuel (takeReassertFrame src.toNat zones (heardAt t src s))) :=
  exec_reassert h.hears h.parses

theorem not_own (h : HearsReassert t src p zones s) : src.toNat ≠ ownNo s := hears_not_own h.hears h.station.1

/-- No group is named: the view is worked, and nothing else. -/
theorem view_eq (h : HearsReassert t src p zones s)
    (hnone : ∀ z < 64, Bits.mem zones z = true → ∀ st g w f, zoneAt s z ≠ .pending st g w f)
    {taken : Nat → ZoneEntry → ZoneEntry} (htaken : ∀ z, (if Bits.mem zones z then
      reassertEntry (ownNo s) src.toNat (zoneAt s z) else zoneAt s z) = taken z (zoneAt s z)) :
    takeReassert src.toNat zones (heardAt t src s) =
      { heardAt t src s with zon := { s.zon with view := s.zon.view.mapIdx taken } } := by
  have hgroups : groupsIn (heardAt t src s) zones (fun _ => true) = [] := groupsIn_none fun z hz st g w f hpend =>
    absurd hpend (hnone z ((mem_toList zones z).1 hz).1 ((mem_toList zones z).1 hz).2 st g w f)
  exact (takeReassert_noGroup (s := heardAt t src s) hgroups h.queue).trans
    (congrArg (fun v => { heardAt t src s with zon := { s.zon with view := v } }) (view_mapIdx_congr (s := s)
      (f := fun z e => if Bits.mem zones z then reassertEntry (ownNo s) src.toNat e else e) htaken))

theorem plain (h : HearsReassert t src p zones s)
    (hplain : ∀ z < 64, Bits.mem zones z = true → zoneAt s z = .free ∨ ∃ st, zoneAt s z = .held st none) :
    exec (.reassert t src p) s = .next { heardAt t src s with zon := { s.zon with
      view := s.zon.view.mapIdx fun z e => if Bits.mem zones z then .held src.toNat none else e } } := by
  have hnotMine : ∀ z, Bits.mem zones z = true → heldForFigure s z = false := by
    intro z hz
    rw [heldForFigure]
    rcases hplain z (mem_lt hz) hz with hat | ⟨st, hat⟩ <;> rw [hat]
  have hview := h.view_eq (taken := fun z e => if Bits.mem zones z then .held src.toNat none else e)
    (fun z hlt hz st g w f hpend => by
      rcases hplain z hlt hz with hat | ⟨st, hat⟩ <;> (rw [hat] at hpend; cases hpend))
    (fun z => by
      by_cases hz : Bits.mem zones z = true
      · rw [if_pos hz, if_pos hz, reassertEntry_notMine (hnotMine z hz)]
      · rw [if_neg hz, if_neg hz])
  rw [h.exec_eq, takeReassertFrame_notMine (s := heardAt t src s) h.station h.not_own h.zero
    (by exact fun z hz => hnotMine z ((mem_toList zones z).1 hz).2), hview, settleZones_rest (by exact h.rest)]

/-- R126: the zones held for own figures stay so against a lower number, which is answered. -/
theorem answered (h : HearsReassert t src p zones s)
    (hnone : ∀ z < 64, Bits.mem zones z = true → ∀ st g w f, zoneAt s z ≠ .pending st g w f)
    (hsome : mineOf zones s ≠ []) (hsrc : ownNo s < src.toNat) (hsends : Sends s) (hroom : s.bus.queue.length < 8) :
    exec (.reassert t src p) s = .next { heardAt t src s with
      zon := { s.zon with
        view := s.zon.view.mapIdx fun z e => if z ∈ mineOf zones s then e
          else if Bits.mem zones z then .held src.toNat none else e
        reassertAt := s.zon.reassertAt.mapIdx fun z r => if z ∈ mineOf zones s then some t else r }
      bus := (heardAt t src s).bus.queued (.claim true (Bits.ofList 64 (mineOf zones s))) } := by
  have hview := h.view_eq (taken := fun z e => if z ∈ mineOf zones s then e
      else if Bits.mem zones z then .held src.toNat none else e) hnone
    (fun z => by
      by_cases hz : Bits.mem zones z = true
      · cases hf : heldForFigure s z with
        | true => rw [if_pos hz, if_pos (mem_mineOf.2 ⟨hz, hf⟩), reassertEntry_kept hsrc hf]
        | false =>
          have hnot : z ∉ mineOf zones s := fun hm => by simp [(mem_mineOf.1 hm).2] at hf
          rw [if_pos hz, if_neg hnot, if_pos hz, reassertEntry_notMine hf]
      · have hnot : z ∉ mineOf zones s := fun hm => hz (mem_mineOf.1 hm).1
        rw [if_neg hz, if_neg hnot, if_neg hz])
  have hnamed : (Bits.toList zones).filter (fun z =>
      heldForFigure (takeReassert src.toNat zones (heardAt t src s)) z && (!false
        || reassertAllowed (takeReassert src.toNat zones (heardAt t src s)) z)) = mineOf zones s := by
    refine List.filter_congr fun z hz => ?_
    rw [heldForFigure_reasserted hz, show decide (ownNo (heardAt t src s) < src.toNat) = true from decide_eq_true hsrc,
      Bool.and_true, Bool.not_false, Bool.true_or, Bool.and_true]
    rfl
  rw [h.exec_eq, takeReassertFrame_kept (s := heardAt t src s) h.station h.not_own h.zero (by exact fun _ _ => .inr hsrc),
    if_pos (by exact hsrc)]
  rw [hview] at hnamed ⊢
  rw [queueReassert_queues hnamed hsome (by exact hsends) (by exact hroom), settleZones_rest (by exact h.rest)]
  rfl

/-- R126: a lower number takes the zones held for one figure, which is told. -/
theorem loses (h : HearsReassert t src p zones s) {f : Nat}
    (hnone : ∀ z < 64, Bits.mem zones z = true → ∀ st g w f, zoneAt s z ≠ .pending st g w f)
    (hsome : mineOf zones s ≠ []) (hsrc : src.toNat < ownNo s)
    (hall : ∀ z ∈ mineOf zones s, zoneAt s z = .held (ownNo s) (some f)) :
    exec (.reassert t src p) s = .next (settleZones trialFuel (figLosesZone ((mineOf zones s).foldl
      (fun u z => raiseFault .zoneLost z u) { heardAt t src s with zon := { s.zon with
        view := s.zon.view.mapIdx fun z e => if Bits.mem zones z then .held src.toNat none else e } }) f)) := by
  have hview := h.view_eq (taken := fun z e => if Bits.mem zones z then .held src.toNat none else e) hnone
    (fun z => by rw [reassertEntry_lower hsrc])
  rw [h.exec_eq, takeReassertFrame_loses (s := heardAt t src s) h.station h.zero hsrc hsome hall, hview]
  rfl

/-- R126, R118: the groups named are voided as a whole, the own one with its claim lost. -/
theorem voids (h : HearsReassert t src p zones s) {g : Nat} (hmine : mineOf zones s = [])
    (hown : ∀ k, (ownNo s, k) ∈ groupsIn s zones (fun _ => true) → k = g) :
    exec (.reassert t src p) s =
      let lost := decide ((ownNo s, g) ∈ groupsIn s zones fun _ => true)
      .next (settleZones trialFuel { (if lost then removeFrame g (heardAt t src s) else heardAt t src s) with
        zon := { s.zon with
          view := s.zon.view.mapIdx fun z e => if Bits.mem zones z then .held src.toNat none
            else ZoneEntry.voidedBy (groupsIn s zones fun _ => true) e
          trialDue := freesOthers zones s || lost
          reqs := if lost then backToHead g s.zon.reqs else s.zon.reqs } }) := by
  have hnotMine : ∀ z, Bits.mem zones z = true → heldForFigure s z = false := fun z hz => by
    rw [Bool.eq_false_iff]
    exact fun hf => List.not_mem_nil (hmine ▸ mem_mineOf.2 ⟨hz, hf⟩)
  have hview : s.zon.view.mapIdx (fun z e => ZoneEntry.voidedBy (groupsIn s zones fun _ => true)
        (if Bits.mem zones z then reassertEntry (ownNo s) src.toNat e else e)) =
      s.zon.view.mapIdx fun z e => if Bits.mem zones z then .held src.toNat none
        else ZoneEntry.voidedBy (groupsIn s zones fun _ => true) e := by
    refine view_mapIdx_congr fun z => ?_
    by_cases hz : Bits.mem zones z = true
    · rw [if_pos hz, if_pos hz, reassertEntry_notMine (hnotMine z hz)]
      rfl
    · rw [if_neg hz, if_neg hz]
  have hvoids := takeReassert_voids (src := src.toNat) (s := heardAt t src s) hown h.queue h.rest.1
  rw [h.exec_eq, takeReassertFrame_notMine (s := heardAt t src s) h.station h.not_own h.zero
    (by exact fun z hz => hnotMine z ((mem_toList zones z).1 hz).2), hvoids, ← hview]
  rfl

end HearsReassert

/-- Settles O51: a CLAIM by what `judgeClaim` finds among the zones named, a reassert by `HearsReassert`: the model's
groups are the statement's `voided` pairs, its zones held for own figures the statement's `mine`. -/
theorem heardClaimsAndReassertsAreTaken : Obligations.HeardClaimsAndReassertsAreTaken := by
  refine ⟨?_, ?_⟩
  · intro t src p zones s hh hrest hp hlow hhigh hzones hzero h named
    have hown := hears_not_own hh hlow
    have hexec := exec_claim hh hp hlow hhigh hzones hzero
    refine ⟨fun hheld hnot => ?_, fun hheld hlower => ?_, ?_, fun hfree => ?_, fun g hsrc hmine hsome => ?_⟩
    · have hnothing : named.filter (fun z => heldForFigure h z && (!true || reassertAllowed h z)) = [] := by
        rw [List.filter_eq_nil_iff]
        intro z hz
        have hz' : heldForFigure h z = false := Bool.eq_false_iff.2 fun hf => by
          obtain ⟨f, hat⟩ := heldForFigure_iff.1 hf
          exact hnot z hz f hat
        simp [hz']
      rw [hexec, judgeClaim_held (s := h) hown hheld, queueReassert_nothing hnothing, settleZones_rest (by exact hrest)]
    · rw [hexec, judgeClaim_lowerPending (s := h) hheld hlower, settleZones_rest (by exact hrest)]
    · intro mine hmine hsome hlate hsends hroom
      obtain rfl : mine = mineOf zones s := by
        rw [hmine, mineOf]
        refine List.filter_congr fun z _ => ?_
        rw [heldForFigure]
        rcases zoneAt s z with _ | ⟨st, g, w, f⟩ | ⟨st, _ | f⟩ <;> rfl
      exact claim_answered hh hrest hp hlow hhigh hzones hzero hsome hlate hsends hroom
    · rw [hexec, judgeClaim_free (s := h) hfree, settleZones_rest (by exact hrest)]
      rfl
    · rw [hexec, judgeClaim_takesOwn (s := h) hsrc hmine hsome]
      rfl
  · intro t src p zones s hh hrest hp hlow hhigh hzero hqueue h mine taken
    have hR : HearsReassert t src p zones s := ⟨hh, hrest, hp, ⟨hlow, hhigh⟩, hzero, hqueue⟩
    have hmine : mine = mineOf zones s := by
      refine List.filter_congr fun z _ => ?_
      rw [heldForFigure]
      rcases zoneAt s z with _ | ⟨st, g, w, f⟩ | ⟨st, _ | f⟩ <;> rfl
    refine ⟨fun hplain => hR.plain hplain, fun hnone hsome hsrc hsends hroom => ?_, fun f hnone hsome hsrc hall => ?_,
      fun g hnil hone => ?_⟩
    · rw [hmine] at hsome ⊢
      exact hR.answered hnone hsome hsrc hsends hroom
    · intro q u asks
      have hu : u = (mineOf zones s).foldl (fun u z => raiseFault .zoneLost z u)
          { h with zon := { s.zon with view := s.zon.view.mapIdx taken } } := by rw [← hmine]
      have hexec : exec (.reassert t src p) s = .next (settleZones trialFuel (figLosesZone u f)) :=
        (hR.loses hnone (hmine ▸ hsome) hsrc (fun z hz => hall z (hmine ▸ hz))).trans (by rw [hu])
      obtain ⟨hfig, hzon, hnow⟩ : u.fig = s.fig ∧ u.zon = { s.zon with view := s.zon.view.mapIdx taken } ∧ u.now = t :=
        raiseFaults_keep ..
      clear_value u
      have hq : figRun u f = q := congrArg (fun x : Fig => x.run.getD f FigRun.reset) hfig
      have hreqs : u.zon.reqs = s.zon.reqs := by rw [hzon]
      have hatRest : ZonesAtRest u := by
        rw [ZonesAtRest, hzon]
        exact hrest
      refine ⟨fun hstill => ?_, fun r hrun => ⟨fun hhoming hclaim => ?_, fun hnoReq hz => ⟨fun hdrives => ?_,
        fun hhoming hphase => ?_⟩⟩⟩
      · rw [hexec, figLosesZone_still (hq ▸ hstill), settleZones_rest hatRest]
      · rw [hexec, figLosesZone_claiming (hq ▸ hhoming) (hq ▸ hrun) hclaim, settleZones_rest hatRest]
      · rw [hexec, figLosesZone_drives hfig hnow (hq ▸ hdrives) (hq ▸ hrun) (hreqs ▸ hnoReq) hz, hq, hreqs]
      · rw [hexec, figLosesZone_homes hfig hnow (hq ▸ hhoming) (hq ▸ hrun) hphase (hreqs ▸ hnoReq) hz, hq, hreqs]
        generalize r.limit = limit
        cases limit <;> rfl
    · intro voided lost view freed
      have hvoided : ∀ st k, voided st k = decide ((st, k) ∈ groupsIn s zones fun _ => true) := by
        intro st k
        rw [Bool.eq_iff_iff, decide_eq_true_iff, mem_groupsIn]
        refine List.any_eq_true.trans ⟨fun ⟨z, hz, hm⟩ => ?_, fun ⟨⟨z, hz, w, f, hpend⟩, _⟩ => ⟨z, hz, ?_⟩⟩
        · cases hat : zoneAt s z with
          | free => rw [hat] at hm; cases hm
          | held st' f' => rw [hat] at hm; cases hm
          | pending st' k' w f =>
            rw [hat] at hm
            obtain ⟨rfl, rfl⟩ : st' = st ∧ k' = k := by simpa using hm
            exact ⟨⟨z, hz, w, f, hat⟩, rfl⟩
        · rw [hpend]
          simp
      have hview : view = s.zon.view.mapIdx fun z e => if Bits.mem zones z then .held src.toNat none
          else ZoneEntry.voidedBy (groupsIn s zones fun _ => true) e := by
        refine view_mapIdx_congr fun z => ?_
        by_cases hz : Bits.mem zones z = true
        · rw [if_pos hz, if_pos hz]
          exact if_pos hz
        · rw [if_neg hz, if_neg hz]
          cases zoneAt s z with
          | free => rfl
          | held st f => rfl
          | pending st k w f => simp only [hvoided, decide_eq_true_eq, ZoneEntry.voidedBy]
      have hfreed : freed = freesOthers zones s := by
        refine congrArg (List.any _) (funext fun z => congrArg (!Bits.mem zones z && ·) ?_)
        cases zoneAt s z with
        | free => rfl
        | held st f => rfl
        | pending st k w f => exact hvoided st k
      have hlost : lost = decide ((ownNo s, g) ∈ groupsIn s zones fun _ => true) := hvoided _ _
      rw [hview, hfreed, hlost]
      refine hR.voids (hmine ▸ hnil) fun k hk => ?_
      obtain ⟨⟨z, hz, w, f, hpend⟩, -⟩ := mem_groupsIn.1 hk
      exact hone z hz k w f hpend

end Sys2Proof.Machine
